-- ==== Sys2Proof/Word.lean ====
section
/-!
DEFINITION. The two word types of the block: a byte of a buffer or of a packet, and the 16-bit
packet header (spec/00_scope.md R12, spec/30_encoding.md R60). Lengths, offsets and counts are
natural numbers (R12, R84).
-/

namespace Sys2Proof

/-- A byte is 8 bits (R12). -/
abbrev Byte := BitVec 8

/-- The 16-bit header value (R60). -/
abbrev Half := BitVec 16

end Sys2Proof
end

