-- ==== Sys2Proof/Config.lean ====
section
/-!
DEFINITION. What an implementation fixes (spec/00_scope.md R8) and the free values: what the spec
leaves unspecified and no proof may know.
-/

namespace Sys2Proof

/-- The block's two endpoints, by name (R8, R15): data-out is the receive direction, data-in the
transmit direction. `EP_OUT` and `EP_IN` stay symbolic in every output action. -/
inductive Endpoint where
  | epOut
  | epIn
  deriving DecidableEq, Repr

/-- `HDR_SIZE`: bytes of the packet header (R8). -/
def Config.hdrSize : Nat := 2

/-- `TRAILER_SIZE`: bytes of the trailing CRC or sentinel field (R8). -/
def Config.trailerSize : Nat := 4

/-- `MSS`: the largest frame payload in bytes (R8). -/
def Config.mss : Nat := 1514

/-- `BUF_CAP`: capacity of each buffer in bytes (R8, decision D2). -/
def Config.bufCap : Nat := 1520

/-- `LEN_BITS`: width of the header's `length` field (R8). -/
def Config.lenBits : Nat := 14

/-- `BUF_ALIGN`: alignment of each buffer's base (R8, R43); read by no rule. -/
def Config.bufAlign : Nat := 4

/-- `USB_MAX_PACKET`: full-speed bulk packet size (R8, R53); read by no rule. -/
def Config.usbMaxPacket : Nat := 64

/-- `SENTINEL`: the four bytes DE AD BE EF at increasing offsets (R8, R42). They are not a
little-endian store of 0xDEADBEEF. -/
def Config.sentinel : List Byte := [0xDE, 0xAD, 0xBE, 0xEF]

/-- Descriptor constants (R7): interface class, subclass, protocol, number of endpoints. Recorded;
no rule of the framer reads them. -/
def Config.descriptor : List Byte := [0x02, 0x0C, 0x07, 0x02]

/-- OPEN parameter (R8, D22): the number of the data-out endpoint `EP_OUT`. -/
opaque Config.epOutNumber : Nat

/-- OPEN parameter (R8, D22): which of the numbers other than `EP_OUT` is `EP_IN`. -/
opaque Config.epInRank : Nat

/-- OPEN parameter (R8, D22): `IFACE_NUM`; read by no rule. -/
opaque Config.ifaceNum : Nat

/-- The number behind an endpoint's name. Any two distinct numbers are possible and nothing else is
known of them (D22: `EP_OUT != EP_IN`). -/
def Config.endpointNumber : Endpoint → Nat
  | .epOut => Config.epOutNumber
  | .epIn => if Config.epInRank < Config.epOutNumber then Config.epInRank else Config.epInRank + 1

/-- FREE VALUE (R33, R52, D4): byte `off` of `RX` where draw number `draw` stands for bytes the spec
leaves unspecified. -/
opaque Config.rxUnspecified (draw off : Nat) : Byte

/-- FREE VALUE (R33, D4): byte `off` of `TX` at reset, kept until XMIT_PACKET writes it. -/
opaque Config.txUnspecified (off : Nat) : Byte

/-- FREE VALUE (R174, U12): what an agent reads outside its ownership window, by draw number. -/
opaque Config.strayRead (draw : Nat) : Byte

end Sys2Proof
end

