-- ==== Sys2Proof/Syntax.lean ====
section
/-!
DEFINITION. The instructions: one constructor per row of spec/opcode_table.json (spec/30_encoding.md
R70, R76), and the buffer chain's segment record (R72).
-/

namespace Sys2Proof

/-- A segment of a buffer chain (R72). The record's third field, `len`, is the length of `payload`
("byte list of length `len`"), so it is derived: see `Segment.len`. -/
structure Segment where
  /-- the bytes the payload pointer reaches -/
  payload : List Byte
  /-- total remaining length from this segment to the end of the chain, this segment included -/
  totLen : Nat
  deriving DecidableEq, Repr

/-- One constructor per row of the opcode table. The first seven are the operations (format OP), the
next three the received packet classes and the last the produced header form (format EEMHDR16). -/
inductive Instr where
  /-- INIT (R90) -/
  | init
  /-- CONFIG (R91) -/
  | config
  /-- RX_ARM (R100) -/
  | rxArm
  /-- RX_COMPLETE(n) (R101): `n` is the transferred byte count -/
  | rxComplete (n : Nat)
  /-- SEND_COMPLETE (R120) -/
  | sendComplete
  /-- TX_READY (R121) -/
  | txReady
  /-- XMIT_PACKET(chain) (R124) -/
  | xmitPacket (chain : List Segment)
  /-- EEM_DATA_SENTINEL (R104): a received data packet with `bmCRC = 0`, in a transfer of `n` bytes -/
  | eemDataSentinel (length : BitVec 14) (n : Nat)
  /-- EEM_DATA_CRC (R104): a received data packet with `bmCRC = 1`, in a transfer of `n` bytes -/
  | eemDataCrc (length : BitVec 14) (n : Nat)
  /-- EEM_CONTROL (R103): a received control packet, in a transfer of `n` bytes; the low 15 bits of
  the header are opaque (R63) -/
  | eemControl (low15 : BitVec 15) (n : Nat)
  /-- EEM_TX_HEADER (R129): the header XMIT_PACKET fills -/
  | eemTxHeader (length : BitVec 14)
  deriving DecidableEq, Repr

end Sys2Proof
end

