-- ==== Sys2Proof/WellFormed.lean ====
section
/-!
DEFINITION. Which terms of `Instr` stand for something the spec has. The operations take any
argument: a `require` that fails is the machine's to refuse (spec/42_receive.md R101).
-/

namespace Sys2Proof

/-- A received packet class names a header, and a header is there only in a transfer of two bytes or
more (R102). The produced header's `length` is 4 to 1518 (R68). -/
def Instr.wellFormed : Instr → Bool
  | .init => true
  | .config => true
  | .rxArm => true
  | .rxComplete _ => true
  | .sendComplete => true
  | .txReady => true
  | .xmitPacket _ => true
  | .eemDataSentinel _ n => decide (Config.hdrSize ≤ n)
  | .eemDataCrc _ n => decide (Config.hdrSize ≤ n)
  | .eemControl _ n => decide (Config.hdrSize ≤ n)
  | .eemTxHeader length => decide (Config.trailerSize ≤ length.toNat)
      && decide (length.toNat ≤ Config.mss + Config.trailerSize)

/-- `i` is well-formed. -/
abbrev Instr.WellFormed (i : Instr) : Prop := i.wellFormed = true

end Sys2Proof
end

