-- ==== Sys2Proof/Decode.lean ====
section
/-!
DEFINITION. The header codec (spec/40_header_codec.md R80, R81), the decoder, total on any bytes and
rejecting by name, and after it the encoder. The bit-exact encodings are the spec's: the 3-bit
operation code (spec/30_encoding.md R70) and the 16-bit header (R60, R61). How an operation's
argument is carried is not in the spec ("argument, not part of the op code"): DESIGN CHOICE, log 1.
-/

namespace Sys2Proof

/-! ## The header codec -/

/-- A decoded header: `HDR_DECODE`'s three results (R81). -/
structure Hdr where
  length : BitVec 14
  bmCRC : Bool
  bmType : Bool
  deriving DecidableEq, Repr

/-- A flag as the 16-bit value 0 or 1. -/
def flagBit (b : Bool) : Half := if b then 1#16 else 0#16

/-- `HDR_ENCODE(length, bmCRC, bmType)` (R80): a `length` of 16384 or more keeps its low 14 bits
(D26). -/
def hdrEncode (length : Nat) (bmCRC bmType : Bool) : Half :=
  (BitVec.ofNat 16 length &&& 0x3FFF#16) ||| (flagBit bmCRC <<< 14) ||| (flagBit bmType <<< 15)

/-- `HDR_BYTES(h)` (R80): little-endian, byte 0 first. -/
def hdrBytes (h : Half) : List Byte := [h.setWidth 8, (h >>> 8).setWidth 8]

/-- `HDR_FROM_BYTES(b0, b1)` (R81). -/
def hdrFromBytes (b0 b1 : Byte) : Half := b0.setWidth 16 ||| (b1.setWidth 16 <<< 8)

/-- `HDR_DECODE(h)` (R81): `length` is bits 13:0, `bmCRC` bit 14, `bmType` bit 15 (R60). -/
def hdrDecode (h : Half) : Hdr where
  length := h.setWidth 14
  bmCRC := h.getLsbD 14
  bmType := h.getLsbD 15

/-! ## Natural numbers as bytes (log 1)

Lengths and counts are unbounded naturals (D23), so they are carried in groups of seven bits, lowest
group first, every byte but the last with bit 7 set. One byte of zeros is the number 0. -/

/-- The bytes of `n`, given `fuel` of at least the number of bytes but one. -/
def natBytesFuel : Nat → Nat → List Byte
  | 0, n => [BitVec.ofNat 8 (n % 128)]
  | fuel + 1, n =>
    if n < 128 then [BitVec.ofNat 8 n]
    else BitVec.ofNat 8 (n % 128 + 128) :: natBytesFuel fuel (n / 128)

/-- The bytes that carry `n`. -/
def natBytes (n : Nat) : List Byte := natBytesFuel n n

/-- Read a natural from the front of `bs`, with the bytes after it. -/
def readNat : List Byte → Option (Nat × List Byte)
  | [] => none
  | b :: bs =>
    if b.toNat < 128 then some (b.toNat, bs)
    else
      match readNat bs with
      | none => none
      | some (m, rest) => some (b.toNat - 128 + 128 * m, rest)

/-! ## The buffer chain as bytes (log 1) -/

/-- Read one segment: `len`, `tot_len`, then `len` payload bytes. -/
def readSegment (bs : List Byte) : Option (Segment × List Byte) :=
  match readNat bs with
  | none => none
  | some (len, bs1) =>
    match readNat bs1 with
    | none => none
    | some (tot, bs2) =>
      if bs2.length < len then none
      else some ({ payload := bs2.take len, totLen := tot }, bs2.drop len)

/-- Read `count` segments. -/
def readSegments : Nat → List Byte → Option (List Segment × List Byte)
  | 0, bs => some ([], bs)
  | count + 1, bs =>
    match readSegment bs with
    | none => none
    | some (seg, rest) =>
      match readSegments count rest with
      | none => none
      | some (segs, rest') => some (seg :: segs, rest')

/-- Read a chain: the number of segments, then the segments. -/
def readChain (bs : List Byte) : Option (List Segment × List Byte) :=
  match readNat bs with
  | none => none
  | some (count, rest) => readSegments count rest

/-! ## The decoder -/

/-- Why bytes are no instruction. -/
inductive DecodeError where
  /-- a call record of no bytes: it names no operation -/
  | empty
  /-- operation code 7: "reserved", "no operation; a model has no constructor for it" (R70) -/
  | reservedOp
  /-- the record ends inside an operation's argument (log 1) -/
  | truncated
  /-- bytes stand after the record's end (log 1) -/
  | trailing
  /-- not the two bytes of a header (R61), or a transfer too short to hold one (R102) -/
  | noHeader
  /-- not a header the block produces (R68) -/
  | notProduced
  deriving DecidableEq, Repr

/-- A record is read to its end. -/
def wholeRecord (i : Instr) (rest : List Byte) : Except DecodeError Instr :=
  match rest with
  | [] => .ok i
  | _ :: _ => .error .trailing

/-- Decode an invocation of the operation interface: bits 2:0 of the first byte are `op` (R70); bits
7:3 are outside the row's mask 0x7 and not read (log 1). -/
def decodeCall : List Byte → Except DecodeError Instr
  | [] => .error .empty
  | b :: bs =>
    match b.toNat % 8 with
    | 0 => wholeRecord .init bs
    | 1 => wholeRecord .config bs
    | 2 => wholeRecord .rxArm bs
    | 3 =>
      match readNat bs with
      | none => .error .truncated
      | some (n, rest) => wholeRecord (.rxComplete n) rest
    | 4 => wholeRecord .sendComplete bs
    | 5 => wholeRecord .txReady bs
    | 6 =>
      match readChain bs with
      | none => .error .truncated
      | some (chain, rest) => wholeRecord (.xmitPacket chain) rest
    | _ => .error .reservedOp

/-- The packet class of a received header (R65, R69, R76): total, every value falls in one class. -/
def classOf (h : Half) (n : Nat) : Instr :=
  if (hdrDecode h).bmType then .eemControl (h.setWidth 15) n
  else if (hdrDecode h).bmCRC then .eemDataCrc (hdrDecode h).length n
  else .eemDataSentinel (hdrDecode h).length n

/-- Decode the header of a packet received in a transfer of `n` bytes. -/
def decodeReceived (n : Nat) : List Byte → Except DecodeError Instr
  | [b0, b1] => if n < Config.hdrSize then .error .noHeader else .ok (classOf (hdrFromBytes b0 b1) n)
  | _ => .error .noHeader

/-- Decode a header standing in `TX`: the one form the block produces (R68). The block itself never
decodes it; its receiver does, as EEM_DATA_SENTINEL (log 4). -/
def decodeProduced : List Byte → Except DecodeError Instr
  | [b0, b1] =>
    let hd := hdrDecode (hdrFromBytes b0 b1)
    if hd.bmType = false ∧ hd.bmCRC = false ∧ Config.trailerSize ≤ hd.length.toNat
        ∧ hd.length.toNat ≤ Config.mss + Config.trailerSize
    then .ok (.eemTxHeader hd.length)
    else .error .notProduced
  | _ => .error .noHeader

/-- Where an instruction's bytes stand: an invocation of the operation interface, the first two bytes
of a received transfer of `n` bytes, or the header region of `TX`. -/
inductive Port where
  | call
  | received (n : Nat)
  | produced
  deriving DecidableEq, Repr

/-- The decoder: total on any bytes at any port. -/
def decode : Port → List Byte → Except DecodeError Instr
  | .call, bs => decodeCall bs
  | .received n, bs => decodeReceived n bs
  | .produced, bs => decodeProduced bs

/-! ## The encoder -/

/-- The bytes of one segment (log 1). -/
def segmentBytes (seg : Segment) : List Byte :=
  natBytes seg.payload.length ++ natBytes seg.totLen ++ seg.payload

/-- The bytes of a chain (log 1). -/
def chainBytes (chain : List Segment) : List Byte :=
  natBytes chain.length ++ chain.flatMap segmentBytes

/-- The port an instruction's bytes stand at. -/
def Instr.port : Instr → Port
  | .init => .call
  | .config => .call
  | .rxArm => .call
  | .rxComplete _ => .call
  | .sendComplete => .call
  | .txReady => .call
  | .xmitPacket _ => .call
  | .eemDataSentinel _ n => .received n
  | .eemDataCrc _ n => .received n
  | .eemControl _ n => .received n
  | .eemTxHeader _ => .produced

/-- The bytes of an instruction, from the tables of R70 and R60. -/
def encode : Instr → List Byte
  | .init => [0]
  | .config => [1]
  | .rxArm => [2]
  | .rxComplete n => 3 :: natBytes n
  | .sendComplete => [4]
  | .txReady => [5]
  | .xmitPacket chain => 6 :: chainBytes chain
  | .eemDataSentinel length _ => hdrBytes (hdrEncode length.toNat false false)
  | .eemDataCrc length _ => hdrBytes (hdrEncode length.toNat true false)
  | .eemControl low15 _ => hdrBytes (low15.setWidth 16 ||| 0x8000#16)
  | .eemTxHeader length => hdrBytes (hdrEncode length.toNat false false)

/-! ## A row of the opcode table as a word -/

/-- The row's mask: the bits of a word that the row fixes (R76). -/
def rowMask : Instr → Half
  | .init => 0x7
  | .config => 0x7
  | .rxArm => 0x7
  | .rxComplete _ => 0x7
  | .sendComplete => 0x7
  | .txReady => 0x7
  | .xmitPacket _ => 0x7
  | .eemDataSentinel _ _ => 0xC000
  | .eemDataCrc _ _ => 0xC000
  | .eemControl _ _ => 0x8000
  | .eemTxHeader _ => 0xC000

/-- The row's match: the value of the fixed bits (R70, R76). -/
def rowMatch : Instr → Half
  | .init => 0x0
  | .config => 0x1
  | .rxArm => 0x2
  | .rxComplete _ => 0x3
  | .sendComplete => 0x4
  | .txReady => 0x5
  | .xmitPacket _ => 0x6
  | .eemDataSentinel _ _ => 0x0000
  | .eemDataCrc _ _ => 0x4000
  | .eemControl _ _ => 0x8000
  | .eemTxHeader _ => 0x0000

/-- The header in the first two bytes (R61). -/
def headerWord : List Byte → Half
  | b0 :: b1 :: _ => hdrFromBytes b0 b1
  | [_] => 0
  | [] => 0

/-- The operation code's byte (R70). -/
def callWord : List Byte → Half
  | b :: _ => b.setWidth 16
  | [] => 0

/-- The word of a row that an instruction's bytes begin with. -/
def rowWord (i : Instr) : Half :=
  match i.port with
  | .call => callWord (encode i)
  | .received _ => headerWord (encode i)
  | .produced => headerWord (encode i)

/-- A call record of operation byte `op` whose operand bytes are zero: `n = 0`, an empty chain. -/
def callOfOp (op : Byte) : List Byte :=
  if op.toNat % 8 = 3 ∨ op.toNat % 8 = 6 then [op, 0] else [op]

/-- The packet with header `h` and zeros after it: the shortest one with room for a trailer. -/
def packetOfHeader (h : Half) : List Byte := hdrBytes h ++ [0, 0, 0, 0]

/-- The instruction the decoder reads from a row's word `w` of `nbits` bits: an operation code where
the row has one byte, the header of a received packet where it has two (log 4: the row
EEM_TX_HEADER has the words of EEM_DATA_SENTINEL and is never decoded). -/
def decodeTableWord (nbits w : Nat) : Option Instr :=
  if nbits ≤ 8 then (decodeCall (callOfOp (BitVec.ofNat 8 w))).toOption
  else
    (decodeReceived (packetOfHeader (BitVec.ofNat 16 w)).length
      ((packetOfHeader (BitVec.ofNat 16 w)).take 2)).toOption

end Sys2Proof
end

