-- ==== Sys2Proof/Machine/State.lean ====
section
/-!
DEFINITION. The state of the packet framer as plain data (spec/10_state.md R20 to R26), the ports it
answers through (spec/00_scope.md R11), what the two other agents hold between operations
(spec/20_memory.md R48), and the state after reset (R33).
-/

namespace Sys2Proof.Machine

/-- The two buffers, each a byte-addressable space of its own (R40). -/
inductive Space where
  | RX
  | TX
  deriving DecidableEq, Repr

/-- `rx_state`, the receive-side tracking state (R24). -/
inductive RxState where
  /-- no receive request has ever been issued: the link is down -/
  | idle
  /-- exactly one receive request is outstanding; the USB agent owns `RX` -/
  | armed
  /-- a data frame has been forwarded; the NET agent owns its bytes in `RX` -/
  | held
  deriving DecidableEq, Repr

/-- The two callbacks INIT registers (R90). -/
inductive Callback where
  | rxComplete
  | sendComplete
  deriving DecidableEq, Repr

/-- The output actions (R11). -/
inductive Action where
  /-- `REG_CALLBACK(ep, cb)`, to USB -/
  | regCallback (ep : Endpoint) (cb : Callback)
  /-- `RECV_REQ(ep, buf, cap)`, to USB -/
  | recvReq (ep : Endpoint) (buf : Space) (cap : Nat)
  /-- `SEND_REQ(ep, buf, len)`, to USB -/
  | sendReq (ep : Endpoint) (buf : Space) (len : Nat)
  /-- `FRAME_OUT(off, len)`, to NET -/
  | frameOut (off len : Nat)
  deriving DecidableEq, Repr

/-- `XmitStatus` (R71). -/
inductive XmitStatus where
  | sent
  | busy
  | oversize
  | malformed
  deriving DecidableEq, Repr

/-- `RxStatus` (R71). -/
inductive RxStatus where
  | forwarded
  | control
  | short
  | framing
  deriving DecidableEq, Repr

/-- `ArmStatus` (R71). -/
inductive ArmStatus where
  | done
  | ignored
  deriving DecidableEq, Repr

/-- What an operation returns, if it returns anything (R11). -/
inductive Result where
  | xmit (s : XmitStatus)
  | rx (s : RxStatus)
  | arm (s : ArmStatus)
  /-- TX_READY's one bit -/
  | ready (b : Bool)
  deriving DecidableEq, Repr

/-- An agent's access to one byte of a buffer, outside any operation (R35, last three rows). -/
inductive Access where
  /-- USB writes byte `off` of `RX` -/
  | usbWrite (off : Nat) (b : Byte)
  /-- USB reads byte `off` of `TX` -/
  | usbRead (off : Nat)
  /-- NET reads byte `off` of `RX` -/
  | netRead (off : Nat)
  deriving DecidableEq, Repr

/-- A completion callback of USB (R146). -/
inductive Completion where
  /-- the receive-complete callback with the transferred byte count -/
  | recv (n : Nat)
  /-- the send-complete callback -/
  | send
  deriving DecidableEq, Repr

/-- A move of the USB or the NET agent. -/
inductive Event where
  /-- an operation is invoked; the bytes name it and carry its argument (log 1); a completion callback
  invoked so answers the oldest request of its direction that USB carries (log 10) -/
  | call (bytes : List Byte)
  /-- USB completes a transfer of these bytes into `RX`: it has placed them and invokes
  RX_COMPLETE with their number (R73's `RX_COMPLETE n=<count> RX=<hex bytes>`) -/
  | transfer (bytes : List Byte)
  /-- USB invokes a completion callback that answers no request it carries: a stale one, whose transfer
  a CONFIG has invalidated, or a second or spurious one (R176, R185). The block cannot tell. -/
  | unmatched (c : Completion)
  /-- an access to one byte -/
  | access (a : Access)
  deriving DecidableEq, Repr

/-- A buffer's contents: the bytes that are specified, by rising offset. An offset that is not listed
holds an unspecified byte (R33, R52; log 5). -/
abbrev Memory := List Host.Cell

/-- The machine's state. -/
structure State where
  /-- R25 -/
  inited : Bool
  /-- R21, the Transmit-Readiness Gate: true is READY, false is BUSY -/
  txReady : Bool
  /-- R24 -/
  rxState : RxState
  /-- R26, ghost -/
  txInflight : Bool
  /-- R22, the receive buffer -/
  rx : Memory
  /-- R23, the transmit buffer -/
  tx : Memory
  /-- the output actions of the latest operation, in the order emitted (R11) -/
  out : List Action
  /-- what the latest operation returned (R11) -/
  result : Option Result
  /-- the frame lent to NET: offset and length of the latest FRAME_OUT, until `RX` is given back (R45) -/
  lease : Option (Nat × Nat)
  /-- the lengths of the SEND_REQs the USB agent carries, oldest first: from SEND_REQ until the
  completion that answers it, or the CONFIG that invalidates it (R46, R48, R176). More than one only after
  an unmatched completion. -/
  sending : List Nat
  /-- how many RECV_REQs the USB agent carries, answered by no completion and invalidated by no CONFIG
  (R32, R48, R176). More than one only after an unmatched completion. -/
  receiving : Nat
  /-- the byte an agent's latest read gave it -/
  seen : Option Byte
  /-- the model's own: the free draw the unlisted bytes of `RX` stand for (log 5) -/
  rxDraw : Nat
  /-- the model's own: the next free draw not used yet (log 5) -/
  nextDraw : Nat
  /-- the model's own: the agents' next moves, oldest first (log 2) -/
  pending : List Event
  deriving DecidableEq, Repr

/-- Why the machine stops with a fault. No operation of the block faults (R140). -/
inductive Fault where
  /-- Raised by an agent's access (`agentAccess`) to an offset its buffer does not have (R40). Safe:
  the spec gives such an access no meaning. -/
  | outsideBuffer (space : Space) (off : Nat)
  deriving DecidableEq, Repr

/-- Why a step is given no meaning: a `require` of the spec fails ("the model refuses it", R13), or the
bytes are no instruction. All are safe: the machine stops where the spec defines nothing. -/
inductive Refusal where
  /-- raised by exec for an instruction without a meaning; no arm of this model raises it -/
  | notModelled (mnemonic : String)
  /-- `require inited` (R90): raised by every operation but INIT -/
  | notInited
  /-- `require rx_state == RX_ARMED` (R101): raised by RX_COMPLETE and the received packet classes -/
  | rxNotArmed
  /-- `require n <= BUF_CAP` (R101): raised by RX_COMPLETE and the received packet classes -/
  | overCapacity (n : Nat)
  /-- raised by step for a call whose bytes are no instruction (R70's reserved code; log 1) -/
  | undecodable (e : DecodeError)
  deriving DecidableEq, Repr

/-- The machine right after power-on (R33, R170). The last nine fields are ports and the model's own
(log 6). -/
def State.reset : State where
  inited := false
  txReady := false
  rxState := .idle
  txInflight := false
  rx := []
  tx := []
  out := []
  result := none
  lease := none
  sending := []
  receiving := 0
  seen := none
  rxDraw := 0
  nextDraw := 1
  pending := []

end Sys2Proof.Machine
end

