-- ==== Sys2Proof/Machine/Ops.lean ====
section
/-!
DEFINITION. The named operations over the buffers, the output ports and the preconditions. The block
takes no exception and returns from none ("No operation of the block traps, aborts or transfers
control anywhere", spec/60_exceptions.md R140): a condition is a status result, given by `finish`.
-/

namespace Sys2Proof.Machine

/-! ## A buffer's contents -/

/-- The canonical form: offsets strictly rising, all inside the buffer (R22, R23). No listed cell equals
an unlisted one, since an unlisted offset holds no specified byte. -/
abbrev Memory.wf (m : Memory) : Prop :=
  m.Pairwise (fun c d => c.1 < d.1) ∧ ∀ c ∈ m, c.1 < Config.bufCap

/-- What an unlisted offset holds: no specified byte (R33, R52). -/
def Memory.unlisted : Option Byte := none

/-- The specified byte at offset `a`, if there is one. -/
def Memory.read (m : Memory) (a : Nat) : Option Byte :=
  match m with
  | [] => Memory.unlisted
  | (b, v) :: rest => if a = b then some v else Memory.read rest a

/-- Write one byte at offset `a`, keeping the offsets in order. -/
def Memory.write (m : Memory) (a : Nat) (v : Byte) : Memory :=
  match m with
  | [] => [(a, v)]
  | (b, w) :: rest =>
    if a < b then (a, v) :: (b, w) :: rest
    else if a = b then (a, v) :: rest
    else (b, w) :: Memory.write rest a v

/-- Write bytes one after another from offset `a` on. -/
def Memory.writeBytes (m : Memory) (a : Nat) : List Byte → Memory
  | [] => m
  | v :: vs => Memory.writeBytes (Memory.write m a v) (a + 1) vs

/-- Forget the bytes from offset `n` on: they become unspecified (R52). -/
def Memory.forgetFrom (m : Memory) (n : Nat) : Memory := m.filter (fun c => decide (c.1 < n))

/-! ## Bytes of the two buffers -/

/-- `RX[off]`; an unspecified byte is a free value (R52, D4). -/
def State.rxByte (s : State) (off : Nat) : Byte :=
  (s.rx.read off).getD (Config.rxUnspecified s.rxDraw off)

/-- `TX[off]`; a byte no XMIT_PACKET has written is a free value (R33, D4). -/
def State.txByte (s : State) (off : Nat) : Byte :=
  (s.tx.read off).getD (Config.txUnspecified off)

/-- `MemWrite(TX[off], ...)`, byte after byte (R13, R44). -/
def State.txWrite (s : State) (off : Nat) (bs : List Byte) : State :=
  { s with tx := s.tx.writeBytes off bs }

/-- The header the ENGINE reads: `HDR_FROM_BYTES(RX[0], RX[1])` (R102). -/
def State.rxHeader (s : State) : Half := hdrFromBytes (s.rxByte 0) (s.rxByte 1)

/-! ## Output ports -/

/-- An operation begins: the ports hold nothing of the operation before. -/
def State.enter (s : State) : State := { s with out := [], result := none }

/-- An operation returns a status or a bit (R13 `return S`). -/
def State.finish (s : State) (r : Result) : State := { s with result := some r }

/-- What an output action does to the frame NET holds: FRAME_OUT lends it, and RECV_REQ gives `RX` back
to USB (R48 points 1, 3 and 4; R175). -/
def Action.leaseAfter (a : Action) (old : Option (Nat × Nat)) : Option (Nat × Nat) :=
  match a with
  | .frameOut off len => some (off, len)
  | .recvReq _ _ _ => none
  | .regCallback _ _ => old
  | .sendReq _ _ _ => old

/-- What an output action does to the sends USB carries: SEND_REQ hands over `TX[0..len)` (R48 point 5). -/
def Action.sendingAfter (a : Action) (old : List Nat) : List Nat :=
  match a with
  | .sendReq _ _ len => old ++ [len]
  | .frameOut _ _ => old
  | .recvReq _ _ _ => old
  | .regCallback _ _ => old

/-- What an output action does to the receive requests USB carries: RECV_REQ is one more (R48 point 1). -/
def Action.receivingAfter (a : Action) (old : Nat) : Nat :=
  match a with
  | .recvReq _ _ _ => old + 1
  | .sendReq _ _ _ => old
  | .frameOut _ _ => old
  | .regCallback _ _ => old

/-- `emit a` (R13): the action stands after those already emitted, and its receiver takes what it is
handed. -/
def State.emit (s : State) (a : Action) : State :=
  { s with
    out := s.out ++ [a]
    lease := a.leaseAfter s.lease
    sending := a.sendingAfter s.sending
    receiving := a.receivingAfter s.receiving }

/-- `RECV_REQ(EP_OUT, RX, BUF_CAP)`: the one receive request the block issues (R91, R100, R101). -/
def recvRequest : Action := .recvReq .epOut .RX Config.bufCap

/-! ## The requests USB carries -/

/-- Everything USB carries is invalidated wholesale by a configuration event (R48, R91, R176). -/
def State.invalidate (s : State) : State := { s with sending := [], receiving := 0 }

/-- USB has finished the oldest send it carries: its SEND_COMPLETE returns `TX` (R48 point 6). -/
def State.sendDone (s : State) : State := { s with sending := s.sending.tail }

/-- USB has finished a receive it carries: its RX_COMPLETE hands `RX` over (R48 point 2). -/
def State.recvDone (s : State) : State := { s with receiving := s.receiving - 1 }

/-! ## Preconditions -/

/-- `require inited` (R90). -/
def requireInited (s : State) (body : State → Host.Outcome State Fault Refusal) :
    Host.Outcome State Fault Refusal :=
  if s.inited then body s else .refused .notInited

/-- The three `require` lines of RX_COMPLETE, in their order (R101). -/
def requireTransfer (n : Nat) (s : State) (body : State → Host.Outcome State Fault Refusal) :
    Host.Outcome State Fault Refusal :=
  requireInited s fun s =>
    if s.rxState = .armed then
      if n ≤ Config.bufCap then body s else .refused (.overCapacity n)
    else .refused .rxNotArmed

end Sys2Proof.Machine
end

