-- ==== Sys2Proof/Machine/Agents.lean ====
section
/-!
DEFINITION. The two agents outside the block: how their moves reach it (fetching an instruction's bytes)
and what their own accesses to the buffers do (spec/10_state.md R35 last three rows, spec/20_memory.md
R45, R46, spec/70_reset_and_hazards.md R186).
-/

namespace Sys2Proof.Machine

/-- What a move of an agent turns out to be. -/
inductive Fetched where
  | instr (i : Instr)
  | access (a : Access)
  | bad (e : DecodeError)
  deriving DecidableEq, Repr

/-- The instruction of a completed transfer: the class of its header, or plain RX_COMPLETE where it has
no header to read (R102). -/
def decodeTransfer (bs : List Byte) : Except DecodeError Instr :=
  if bs.length < Config.hdrSize then .ok (.rxComplete bs.length)
  else decode (.received bs.length) (bs.take Config.hdrSize)

/-- The operation a completion callback invokes (R146). -/
def Completion.instr (c : Completion) : Instr :=
  match c with
  | .recv n => .rxComplete n
  | .send => .sendComplete

/-- Read a move. -/
def fetch (e : Event) : Fetched :=
  match e with
  | .call bs =>
    match decode .call bs with
    | .ok i => .instr i
    | .error err => .bad err
  | .transfer bs =>
    match decodeTransfer bs with
    | .ok i => .instr i
    | .error err => .bad err
  | .unmatched c => .instr c.instr
  | .access a => .access a

/-- All of `RX` becomes unspecified: a free draw never used before (R52, R186; log 5). -/
def State.scrambleRx (s : State) : State :=
  { s with rx := [], rxDraw := s.nextDraw, nextDraw := s.nextDraw + 1 }

/-- USB hands `RX` over with a transfer of `n` bytes: `RX[n..1520)` is unspecified from here on (R48
point 2, R52; log 9). -/
def State.handOver (s : State) (n : Nat) : State :=
  { s with rx := s.rx.forgetFrom n, rxDraw := s.nextDraw, nextDraw := s.nextDraw + 1 }

/-- USB has placed the bytes of a transfer in `RX[0..n)`; the rest is unspecified (R52, R101). It was
given `BUF_CAP` bytes of room (R51). -/
def State.deliver (s : State) (bs : List Byte) : State :=
  { s.scrambleRx with rx := Memory.writeBytes [] 0 (bs.take Config.bufCap) }

/-- What the invoking agent does before the operation starts: USB ends the request that its completion
answers, and hands `RX` over with a receive completion. -/
def arrive (e : Event) (i : Instr) (s : State) : State :=
  match e with
  | .transfer bs => s.recvDone.deliver bs
  | .access _ => s
  | .unmatched c =>
    match c with
    | .recv n => s.handOver n
    | .send => s
  | .call _ =>
    match i with
    | .rxComplete n => s.recvDone.handOver n
    | .sendComplete => s.sendDone
    | .init => s
    | .config => s
    | .rxArm => s
    | .txReady => s
    | .xmitPacket _ => s
    | .eemDataSentinel _ _ => s
    | .eemDataCrc _ _ => s
    | .eemControl _ _ => s
    | .eemTxHeader _ => s

/-- A read outside the reader's window gives an unspecified byte (R174, U12). -/
def State.strayRead (s : State) : State :=
  { s with seen := some (Config.strayRead s.nextDraw), nextDraw := s.nextDraw + 1 }

/-- The offset lies in the frame NET holds (R45). -/
def inLease (s : State) (off : Nat) : Bool :=
  match s.lease with
  | none => false
  | some (base, len) => decide (s.rxState = .held) && decide (base ≤ off) && decide (off < base + len)

/-- The offset lies in a packet USB is sending (R46). -/
def inSend (s : State) (off : Nat) : Bool := s.sending.any fun len => decide (off < len)

/-- An agent's access to one byte. USB owns `RX` only while a receive is armed; a write at another time
leaves no guarantee of its bytes (R186; log 14). -/
def agentAccess (a : Access) (s : State) : Host.Outcome State Fault Refusal :=
  match a with
  | .usbWrite off b =>
    if off < Config.bufCap then
      if s.rxState = .armed then .next { s with rx := s.rx.write off b }
      else .next s.scrambleRx
    else .fault (.outsideBuffer .RX off)
  | .usbRead off =>
    if inSend s off then .next { s with seen := some (s.txByte off) }
    else if off < Config.bufCap then .next s.strayRead
    else .fault (.outsideBuffer .TX off)
  | .netRead off =>
    if inLease s off then .next { s with seen := some (s.rxByte off) }
    else if off < Config.bufCap then .next s.strayRead
    else .fault (.outsideBuffer .RX off)

/-- Nobody invokes anything: the block waits and nothing changes (R10, R173; log 2). -/
def idle (s : State) : Host.Outcome State Fault Refusal := .next s

/-- The move that stands for a row's word: a call record, or a transfer (log 3). -/
def eventOfWord (nbits w : Nat) : Event :=
  if nbits ≤ 8 then .call (callOfOp (BitVec.ofNat 8 w))
  else .transfer (packetOfHeader (BitVec.ofNat 16 w))

/-- The instruction is delivered by a completed transfer (R101). -/
def needsTransfer (i : Instr) : Bool :=
  match i with
  | .rxComplete _ => true
  | .eemDataSentinel _ _ => true
  | .eemDataCrc _ _ => true
  | .eemControl _ _ => true
  | .init => false
  | .config => false
  | .rxArm => false
  | .sendComplete => false
  | .txReady => false
  | .xmitPacket _ => false
  | .eemTxHeader _ => false

/-- `s` brought to where `i` can be delivered at all: nothing but INIT is delivered before INIT, and a
receive completion only while a receive request is outstanding (R147). This is what INIT and CONFIG
leave of those two conditions (R172); log 2. -/
def deliverable (i : Instr) (s : State) : State :=
  if i = .init then s
  else if needsTransfer i then
    { s with inited := true, rxState := .armed, lease := none, receiving := 1 }
  else { s with inited := true }

/-- Bring `s` to where the move `e` can come next. -/
def bootedFor (e : Event) (s : State) : State :=
  match fetch e with
  | .instr i => deliverable i s
  | .access _ => s
  | .bad _ => s

end Sys2Proof.Machine
end

