-- ==== Sys2Proof/Machine/Flags.lean ====
section
/-!
DEFINITION. The control bits and their changes: the Transmit-Readiness Gate with its ghost
(spec/10_state.md R21, R26), the receive-side tracking state (R24), and the numbers of the status codes
(spec/30_encoding.md R71).
-/

namespace Sys2Proof.Machine

/-- The gate becomes READY and the ghost `tx_inflight` false: SEND_COMPLETE's and CONFIG's effect on the
transmit side (R91, R120). What USB in truth still carries is its own (`sending`, R176). -/
def State.openGate (s : State) : State := { s with txReady := true, txInflight := false }

/-- The gate becomes BUSY and a send is in flight: XMIT_PACKET's effect, before its SEND_REQ (R124, R130). -/
def State.closeGate (s : State) : State := { s with txReady := false, txInflight := true }

/-- `rx_state <- r` (R24). -/
def State.setRx (s : State) (r : RxState) : State := { s with rxState := r }

/-- The code of an `XmitStatus` (R71). -/
def XmitStatus.code : XmitStatus → Nat
  | .sent => 0
  | .busy => 1
  | .oversize => 2
  | .malformed => 3

/-- The code of an `RxStatus` (R71). -/
def RxStatus.code : RxStatus → Nat
  | .forwarded => 0
  | .control => 1
  | .short => 2
  | .framing => 3

/-- The code of an `ArmStatus` (R71). -/
def ArmStatus.code : ArmStatus → Nat
  | .done => 0
  | .ignored => 1

end Sys2Proof.Machine
end

