-- ==== Sys2Proof/Machine/Link.lean ====
section
/-!
DEFINITION. Link control: INIT and CONFIG (spec/41_link_control.md).
-/

namespace Sys2Proof.Machine

/-- INIT (R90): registers the two callbacks and sets `inited`; nothing else, and no precondition. -/
def execInit (s : State) : Host.Outcome State Fault Refusal :=
  let s := s.enter
  let s := s.emit (.regCallback .epOut .rxComplete)
  let s := s.emit (.regCallback .epIn .sendComplete)
  .next { s with inited := true }

/-- CONFIG (R91, R92): the transfers USB carried are invalidated, a receive is armed and the gate forced to
READY, whatever went before. -/
def execConfig (s : State) : Host.Outcome State Fault Refusal :=
  requireInited s fun s =>
    let s := s.enter.invalidate
    let s := s.emit recvRequest
    let s := s.setRx .armed
    .next s.openGate

end Sys2Proof.Machine
end

