-- ==== Sys2Proof/Machine/Receive.lean ====
section
/-!
DEFINITION. The receive path: RX_ARM, RX_COMPLETE and the three received packet classes
(spec/42_receive.md).
-/

namespace Sys2Proof.Machine

/-- RX_ARM (R100): the consumer gives the buffer back. -/
def execRxArm (s : State) : Host.Outcome State Fault Refusal :=
  requireInited s fun s =>
    if s.rxState = .held then
      let s := s.enter.emit recvRequest
      let s := s.setRx .armed
      .next (s.finish (.arm .done))
    else .next (s.enter.finish (.arm .ignored))

/-- A transfer that reaches no consumer: the receive is re-armed inside the same operation, so
`rx_state` stays RX_ARMED (R103, R105, R106). -/
def rxDrop (why : RxStatus) (s : State) : State := (s.emit recvRequest).finish (.rx why)

/-- The forwarding branch (R104): RX_HELD, then FRAME_OUT of the `n - 6` bytes after the header. -/
def rxForward (n : Nat) (s : State) : State :=
  let s := s.setRx .held
  let s := s.emit (.frameOut Config.hdrSize (n - Config.hdrSize - Config.trailerSize))
  s.finish (.rx .forwarded)

/-- The data path of the demultiplexer (R104 to R107). `bmCRC` and the trailer are not examined (R64). -/
def rxData (length n : Nat) (s : State) : State :=
  if n < Config.hdrSize + Config.trailerSize then rxDrop .short s
  else if n < Config.hdrSize + length then rxDrop .framing s
  else rxForward n s

/-- The control path (R103): discarded whole. -/
def rxControl (s : State) : State := rxDrop .control s

/-- What comes before the header is read: the preconditions, and a transfer with no room for one
(R101, R105). -/
def rxTransfer (n : Nat) (body : State → State) (s : State) : Host.Outcome State Fault Refusal :=
  requireTransfer n s fun s =>
    if n < Config.hdrSize then .next (rxDrop .short s.enter) else .next (body s.enter)

/-- RX_COMPLETE(n) (R101): the demultiplexer on the header in `RX[0..2)`. -/
def execRxComplete (n : Nat) (s : State) : Host.Outcome State Fault Refusal :=
  rxTransfer n (fun s =>
    let hd := hdrDecode s.rxHeader
    if hd.bmType then rxControl s else rxData hd.length.toNat n s) s

/-- EEM_DATA_SENTINEL (R104): a data packet of `n` bytes whose header has `bmCRC = 0`. -/
def execEemDataSentinel (length : BitVec 14) (n : Nat) (s : State) :
    Host.Outcome State Fault Refusal :=
  rxTransfer n (rxData length.toNat n) s

/-- EEM_DATA_CRC (R104): a data packet of `n` bytes whose header has `bmCRC = 1`, handled exactly as
with `bmCRC = 0` (R64). -/
def execEemDataCrc (length : BitVec 14) (n : Nat) (s : State) : Host.Outcome State Fault Refusal :=
  rxTransfer n (rxData length.toNat n) s

/-- EEM_CONTROL (R103): a control packet of `n` bytes; the low 15 bits are opaque (R63). -/
def execEemControl (_low15 : BitVec 15) (n : Nat) (s : State) : Host.Outcome State Fault Refusal :=
  rxTransfer n rxControl s

end Sys2Proof.Machine
end

