-- ==== Sys2Proof/Machine/Operands.lean ====
section
/-!
DEFINITION. The one structured operand of the block, the buffer chain, and the two passes of its walker
(spec/30_encoding.md R72, spec/43_transmit.md R122, R123). The other operand, the transferred size `n`,
is a plain natural number (R101).
-/

namespace Sys2Proof.Machine

/-- A segment's `len` (R72): its payload has that length. -/
def segmentLen (seg : Segment) : Nat := seg.payload.length

/-- The end-of-chain marker: `tot_len == len` (R72). -/
def isMarker (seg : Segment) : Bool := decide (seg.totLen = segmentLen seg)

/-- What CHAIN_TOTAL answers (R122). -/
inductive Walk where
  /-- `Total(k, L)`: the marker is segment `k`; segments 0 to `k` have `total` bytes -/
  | total (k total : Nat)
  /-- `NoMarker` -/
  | noMarker
  deriving DecidableEq, Repr

/-- CHAIN_TOTAL's loop from segment `i` on, with `total` bytes before it (R122). -/
def chainTotalFrom (i total : Nat) : List Segment → Walk
  | [] => .noMarker
  | seg :: rest =>
    if isMarker seg then .total i (total + segmentLen seg)
    else chainTotalFrom (i + 1) (total + segmentLen seg) rest

/-- `CHAIN_TOTAL(chain)`: the walker's first pass, which writes nothing (R122). -/
def chainTotal (chain : List Segment) : Walk := chainTotalFrom 0 0 chain

/-- CHAIN_FLATTEN's loop over `k + 1` segments, with `total` bytes already copied; it returns the new
total (R123). -/
def chainFlattenFrom (s : State) (total k : Nat) : List Segment → State × Nat
  | [] => (s, total)
  | seg :: rest =>
    let s' := s.txWrite (Config.hdrSize + total) seg.payload
    match k with
    | 0 => (s', total + segmentLen seg)
    | k' + 1 => chainFlattenFrom s' (total + segmentLen seg) k' rest

/-- `CHAIN_FLATTEN(chain, k)`: copies the payload of segments 0 to `k` into `TX` right after the header
region and returns the number of bytes copied (R123). -/
def chainFlatten (s : State) (chain : List Segment) (k : Nat) : State × Nat :=
  chainFlattenFrom s 0 k chain

end Sys2Proof.Machine
end

