-- ==== Sys2Proof/Machine/Transmit.lean ====
section
/-!
DEFINITION. The transmit path: SEND_COMPLETE, TX_READY, XMIT_PACKET and the header it fills
(spec/43_transmit.md).
-/

namespace Sys2Proof.Machine

/-- SEND_COMPLETE (R120): the gate becomes READY, unconditionally. -/
def execSendComplete (s : State) : Host.Outcome State Fault Refusal :=
  requireInited s fun s => .next s.enter.openGate

/-- TX_READY (R121): a pure read of the gate. -/
def execTxReady (s : State) : Host.Outcome State Fault Refusal :=
  requireInited s fun s => .next (s.enter.finish (.ready s.txReady))

/-- The sentinel's four bytes right after the payload (R128). -/
def fillSentinel (total : Nat) (s : State) : State :=
  s.txWrite (Config.hdrSize + total) Config.sentinel

/-- The header of a produced packet, little-endian at `TX[0..2)` (R129). -/
def fillHeader (length : Nat) (s : State) : State :=
  s.txWrite 0 (hdrBytes (hdrEncode length false false))

/-- Assemble the packet of the chain's segments 0 to `k`, close the gate, send (R124, R128 to R131):
payload, sentinel, header last, gate before send. -/
def xmitSend (chain : List Segment) (k total : Nat) (s : State) : State :=
  let s := (chainFlatten s chain k).1
  let s := fillSentinel total s
  let length := total + Config.trailerSize
  let s := fillHeader length s
  let s := s.closeGate
  let s := s.emit (.sendReq .epIn .TX (Config.hdrSize + length))
  s.finish (.xmit .sent)

/-- XMIT_PACKET(chain) (R124): gate, then chain, then size (R149), and a frame that fails a test is
dropped with nothing written (R125 to R127). -/
def execXmitPacket (chain : List Segment) (s : State) : Host.Outcome State Fault Refusal :=
  requireInited s fun s =>
    if s.txReady then
      match chainTotal chain with
      | .noMarker => .next (s.enter.finish (.xmit .malformed))
      | .total k total =>
        if Config.mss < total then .next (s.enter.finish (.xmit .oversize))
        else .next (xmitSend chain k total s.enter)
    else .next (s.enter.finish (.xmit .busy))

/-- EEM_TX_HEADER (R129): the header fill that XMIT_PACKET does last, by itself. `TX` is the ENGINE's
to write only while the gate is READY (R46), so with the gate BUSY it is XMIT_PACKET's no-op (R125).
DEDUCED, log 4. -/
def execEemTxHeader (length : BitVec 14) (s : State) : Host.Outcome State Fault Refusal :=
  requireInited s fun s =>
    if s.txReady then .next (fillHeader length.toNat s.enter)
    else .next (s.enter.finish (.xmit .busy))

end Sys2Proof.Machine
end

