-- ==== Sys2Proof/Machine/Dispatch.lean ====
section
/-!
DEFINITION. One arm per instruction, one direct call of its meaning.
-/

namespace Sys2Proof.Machine

def exec (i : Instr) (s : State) : Host.Outcome State Fault Refusal :=
  match i with
  | .init => Sys2Proof.Machine.execInit s
  | .config => Sys2Proof.Machine.execConfig s
  | .rxArm => Sys2Proof.Machine.execRxArm s
  | .rxComplete n => Sys2Proof.Machine.execRxComplete n s
  | .sendComplete => Sys2Proof.Machine.execSendComplete s
  | .txReady => Sys2Proof.Machine.execTxReady s
  | .xmitPacket chain => Sys2Proof.Machine.execXmitPacket chain s
  | .eemDataSentinel length n => Sys2Proof.Machine.execEemDataSentinel length n s
  | .eemDataCrc length n => Sys2Proof.Machine.execEemDataCrc length n s
  | .eemControl low15 n => Sys2Proof.Machine.execEemControl low15 n s
  | .eemTxHeader length => Sys2Proof.Machine.execEemTxHeader length s

end Sys2Proof.Machine
end

