-- ==== Sys2Proof/Machine/Step.lean ====
section
/-!
DEFINITION. One step: the oldest move of the agents is taken; an operation runs whole (spec/10_state.md
R34, spec/60_exceptions.md R148, R151).
-/

namespace Sys2Proof.Machine

/-- Take the next move. An operation runs on the state its invoker left; the moves after it wait. -/
def step (s : State) : Host.Outcome State Fault Refusal :=
  match s.pending with
  | [] => idle s
  | e :: rest =>
    match fetch e with
    | .instr i => exec i (arrive e i { s with pending := rest })
    | .access a => agentAccess a { s with pending := rest }
    | .bad err => .refused (.undecodable err)

/-- `s` with the move that stands for a row's word as the next one, and brought to where such a move
can be delivered (R147; log 2). -/
def State.withFetchWord (s : State) (nbits w : Nat) : State :=
  { bootedFor (eventOfWord nbits w) s with pending := eventOfWord nbits w :: s.pending }

end Sys2Proof.Machine
end

