-- ==== Sys2Proof/Safety.lean ====
section
/-!
DEFINITION. What claims are stated with: the packet in `TX`, the invariant every step keeps
(spec/10_state.md R29 to R32), and the duties of the two agents (spec/70_reset_and_hazards.md R186).
-/

namespace Sys2Proof.Machine

/-- The payload of a chain's segments 0 to `k`, in order (R123). -/
def chainPayload (chain : List Segment) (k : Nat) : List Byte :=
  (chain.take (k + 1)).flatMap Segment.payload

/-- The class packet the block produces for a payload: header, payload, sentinel (R41, R67, R68). -/
def packetBytes (payload : List Byte) : List Byte :=
  hdrBytes (hdrEncode (payload.length + Config.trailerSize) false false) ++ payload ++ Config.sentinel

/-- How many bytes of `TX`, from offset 0, XMIT_PACKET stores to: the packet where it sends one, nothing
where it drops the frame (R124). -/
def xmitStored (chain : List Segment) (s : State) : Nat :=
  if s.txReady then
    match chainTotal chain with
    | .noMarker => 0
    | .total _ total =>
      if Config.mss < total then 0 else Config.hdrSize + total + Config.trailerSize
  else 0

/-- `TX[0..len)` is a class packet the block may produce (R41, R66, R68): header value `len - 2` with
both flag bits clear, sentinel at the end. -/
structure PacketInTx (s : State) (len : Nat) : Prop where
  shortest : Config.hdrSize + Config.trailerSize ≤ len
  longest : len ≤ Config.bufCap
  header : hdrFromBytes (s.txByte 0) (s.txByte 1) = hdrEncode (len - Config.hdrSize) false false
  sentinel : ∀ j, j < Config.trailerSize →
    some (s.txByte (len - Config.trailerSize + j)) = Config.sentinel[j]?

/-- What holds at reset and is kept by every step, whatever the agents do. -/
structure Inv (s : State) : Prop where
  /-- the receive buffer's contents are in canonical form, inside the buffer -/
  rxWf : s.rx.wf
  /-- the transmit buffer's contents are in canonical form, inside the buffer -/
  txWf : s.tx.wf
  /-- R29: the gate is BUSY for as long as a send is in flight -/
  gate : s.txInflight = true → s.txReady = false
  /-- R172: the gate opens only after INIT -/
  readyInited : s.txReady = true → s.inited = true
  /-- R24, R147: a receive was armed only after INIT -/
  rxInited : s.rxState ≠ .idle → s.inited = true
  /-- R45: NET holds a frame exactly in RX_HELD, and the frame is `RX[2..2+L)` with room for a trailer -/
  lease : (s.rxState = .held → ∃ len, s.lease = some (Config.hdrSize, len) ∧ len ≤ Config.mss) ∧
    (s.rxState ≠ .held → s.lease = none)
  /-- R26, R46, R131: while `tx_inflight` is set USB carries the latest send, and it is a class packet -/
  packet : s.txInflight = true → ∃ len, s.sending.getLast? = some len ∧ PacketInTx s len
  /-- R24: in RX_ARMED USB carries a receive request -/
  armed : s.rxState = .armed → 0 < s.receiving
  /-- R24: in RX_IDLE none was ever issued -/
  idle : s.rxState = .idle → s.receiving = 0
  /-- the free draw `RX` reads from has been used up (log 5) -/
  draws : s.rxDraw < s.nextDraw

/-- R29 in the source's words: the gate is false between issuing a send and receiving that send's
completion, over the sends USB in truth carries. -/
def GateInvariant (s : State) : Prop := s.sending ≠ [] → s.txReady = false

/-- What holds beside `Inv` for as long as every completion answers a request USB carries, the premise of
R176, R185 and 93_implementation_defined U10. -/
structure Matched (s : State) : Prop where
  /-- R29, R32: USB carries at most one send -/
  oneSend : s.sending.length ≤ 1
  /-- R26: `tx_inflight` is true from a SEND_REQ until the matching SEND_COMPLETE or the next CONFIG -/
  inflight : s.txInflight = true ↔ s.sending ≠ []
  /-- R29 -/
  gate : GateInvariant s
  /-- R46, R131: every send USB carries is a class packet in `TX` -/
  packet : ∀ len ∈ s.sending, PacketInTx s len
  /-- R24, R32: USB carries exactly one receive request in RX_ARMED and none elsewhere -/
  recv : s.receiving = if s.rxState = .armed then 1 else 0

/-- The duties of R186 on an operation invoked by a call or a transfer. A completion so invoked answers
the oldest request USB carries, so the duty is that there is one: a CONFIG has not invalidated it and no
completion has answered it. -/
def opDuty (i : Instr) (s : State) : Prop :=
  match i with
  | .init => s.inited = false
  | .config => s.inited = true
  | .rxArm => s.inited = true ∧ s.rxState = .held
  | .rxComplete n =>
    s.inited = true ∧ s.rxState = .armed ∧ n ≤ Config.bufCap ∧ 0 < s.receiving
  | .sendComplete => s.inited = true ∧ s.sending ≠ []
  | .txReady => s.inited = true
  | .xmitPacket _ => s.inited = true
  | .eemDataSentinel _ n =>
    s.inited = true ∧ s.rxState = .armed ∧ n ≤ Config.bufCap ∧ 0 < s.receiving
  | .eemDataCrc _ n =>
    s.inited = true ∧ s.rxState = .armed ∧ n ≤ Config.bufCap ∧ 0 < s.receiving
  | .eemControl _ n =>
    s.inited = true ∧ s.rxState = .armed ∧ n ≤ Config.bufCap ∧ 0 < s.receiving
  | .eemTxHeader _ => s.inited = true ∧ s.txReady = true

/-- The duties of R186 on an agent's access: USB writes `RX` only while armed and within the capacity,
USB reads only what it is sending, NET reads only what it holds. -/
def accessDuty (a : Access) (s : State) : Prop :=
  match a with
  | .usbWrite off _ => s.rxState = .armed ∧ off < Config.bufCap
  | .usbRead off => inSend s off = true
  | .netRead off => inLease s off = true

/-- The duties of R186 on what a move turns out to be. -/
def fetchedDuty (f : Fetched) (s : State) : Prop :=
  match f with
  | .instr i => opDuty i s
  | .access a => accessDuty a s
  | .bad _ => False

/-- The duties of R186 on a move. A completion that answers no request USB carries breaks one always. -/
def duty (e : Event) (s : State) : Prop :=
  match e with
  | .unmatched _ => False
  | .call bs => fetchedDuty (fetch (.call bs)) s
  | .transfer bs => fetchedDuty (fetch (.transfer bs)) s
  | .access a => fetchedDuty (.access a) s

/-- Every byte of `RX` reads the same in both states. -/
def SameRx (s t : State) : Prop := ∀ off, t.rxByte off = s.rxByte off

/-- Every byte of `TX` reads the same in both states. -/
def SameTx (s t : State) : Prop := ∀ off, t.txByte off = s.txByte off

/-- What the block hands to nobody and no operation writes: the agents' waiting moves, the byte an agent
saw, the counters of free draws. -/
def SameAgents (s t : State) : Prop :=
  t.pending = s.pending ∧ t.seen = s.seen ∧ t.rxDraw = s.rxDraw ∧ t.nextDraw = s.nextDraw

end Sys2Proof.Machine
end

