-- ==== Sys2Proof/Certificates/Slice0/Obligations.lean ====
section
/-!
DEFINITION. The statements for the provers. Rule numbers are those of spec/. A clause about `out`,
`result`, `lease`, `sending`, `receiving`, `seen`, `pending` or the free draws is about fields the model adds to the
spec's six state elements (logs 2, 5 and 6).
-/

open Sys2Proof Sys2Proof.Machine

/-! ## Encoding -/

/-- Words written out from the tables of R60 and R70 decode to the instruction of their row. Operation
code 7 is no instruction. The operands of zeros, and `n = 6` for a header, are the model's choice (logs 1
and 3). -/
def Obligations.TableWordsDecode : Prop :=
  decodeTableWord 8 0b000 = some .init ∧
  decodeTableWord 8 0b001 = some .config ∧
  decodeTableWord 8 0b010 = some .rxArm ∧
  decodeTableWord 8 0b011 = some (.rxComplete 0) ∧
  decodeTableWord 8 0b100 = some .sendComplete ∧
  decodeTableWord 8 0b101 = some .txReady ∧
  decodeTableWord 8 0b110 = some (.xmitPacket []) ∧
  decodeTableWord 8 0b111 = none ∧
  decodeTableWord 16 0x0032 = some (.eemDataSentinel 50 6) ∧
  decodeTableWord 16 0x4032 = some (.eemDataCrc 50 6) ∧
  decodeTableWord 16 0x8805 = some (.eemControl 0x0805 6)

/-- R80: the value of HDR_ENCODE for every length (the low 14 bits are kept) and both flags, and the two
bytes of a header, low byte first. -/
def Obligations.HeaderEncodeValue : Prop :=
  (∀ (length : Nat) (bmCRC bmType : Bool),
    (hdrEncode length bmCRC bmType).toNat =
      length % 16384 + (if bmCRC then 16384 else 0) + (if bmType then 32768 else 0)) ∧
  (∀ h : Half, (hdrBytes h).map BitVec.toNat = [h.toNat % 256, h.toNat / 256])

/-- R81, whole: HDR_FROM_BYTES, the three fields of HDR_DECODE on every value, its corner cases and its
example. -/
def Obligations.HeaderDecodeFields : Prop :=
  (∀ b0 b1 : Byte, (hdrFromBytes b0 b1).toNat = b0.toNat + 256 * b1.toNat) ∧
  (∀ h : Half, (hdrDecode h).length.toNat = h.toNat % 16384 ∧
    (hdrDecode h).bmCRC = decide (h.toNat / 16384 % 2 = 1) ∧
    (hdrDecode h).bmType = decide (h.toNat / 32768 % 2 = 1)) ∧
  hdrDecode 0x0000 = ⟨0, false, false⟩ ∧
  hdrDecode 0xFFFF = ⟨16383, true, true⟩ ∧
  hdrDecode 0x8000 = ⟨0, false, true⟩ ∧
  hdrDecode 0x4000 = ⟨0, true, false⟩ ∧
  hdrFromBytes 0x18 0x00 = 0x0018 ∧
  hdrDecode 0x0018 = ⟨24, false, false⟩

/-- R82, whole: the three round-trip laws of the header codec. -/
def Obligations.HeaderRoundTrip : Prop :=
  (∀ h : Half,
    hdrEncode (hdrDecode h).length.toNat (hdrDecode h).bmCRC (hdrDecode h).bmType = h) ∧
  (∀ (length : Nat) (c t : Bool), length < 16384 →
    (hdrDecode (hdrEncode length c t)).length.toNat = length ∧
    (hdrDecode (hdrEncode length c t)).bmCRC = c ∧
    (hdrDecode (hdrEncode length c t)).bmType = t) ∧
  (∀ b0 b1 : Byte, hdrBytes (hdrFromBytes b0 b1) = [b0, b1])

/-- Decoding the bytes of a well-formed instruction gives it back, for every instruction and every
operand: no bit of an encoding is dropped. The carrier of `n` and of the chain is the model's choice
(log 1). -/
def Obligations.DecodeOfEncode : Prop :=
  ∀ i : Instr, i.WellFormed → decode i.port (encode i) = .ok i

/-- Whatever the decoder accepts is a well-formed instruction of the port it was read at. -/
def Obligations.DecodedIsWellFormed : Prop :=
  ∀ (p : Port) (bs : List Byte) (i : Instr), decode p bs = .ok i → i.WellFormed ∧ i.port = p

/-- The receive decoder picks the packet class by the rows' masks and matches (R65, R69, R76), with every
field where R60 puts it, and every 16-bit value falls in one class. -/
def Obligations.ReceivedClassByMask : Prop :=
  ∀ (b0 b1 : Byte) (n : Nat), Config.hdrSize ≤ n →
    let h := hdrFromBytes b0 b1
    (h &&& 0xC000#16 = 0x0000#16 → decode (.received n) [b0, b1] = .ok (.eemDataSentinel (h.setWidth 14) n)) ∧
    (h &&& 0xC000#16 = 0x4000#16 → decode (.received n) [b0, b1] = .ok (.eemDataCrc (h.setWidth 14) n)) ∧
    (h &&& 0x8000#16 = 0x8000#16 → decode (.received n) [b0, b1] = .ok (.eemControl (h.setWidth 15) n)) ∧
    (h &&& 0xC000#16 = 0x0000#16 ∨ h &&& 0xC000#16 = 0x4000#16 ∨ h &&& 0x8000#16 = 0x8000#16)

/-- Operation code 7 is reserved (R70): a call of it is refused by name, whatever stands after it. -/
def Obligations.ReservedCodeRefused : Prop :=
  ∀ (s : State) (b : Byte) (rest : List Byte) (moves : List Event), b.toNat % 8 = 7 →
    s.pending = .call (b :: rest) :: moves → step s = .refused (.undecodable .reservedOp)

/-! ## Steps -/

/-- A step on a call whose bytes decode to an instruction runs exactly that instruction, with the moves
after it still waiting. Only with a completion does the invoker do something first: USB ends the request
that it answers (R48, R176; log 10), and with RX_COMPLETE(n) it hands `RX` over, which leaves `RX[n..)`
unspecified (R52, log 9). -/
def Obligations.StepRunsDecodedCall : Prop :=
  ∀ (s : State) (bs : List Byte) (moves : List Event) (i : Instr),
    s.pending = .call bs :: moves → decode .call bs = .ok i →
      (∀ n, i = .rxComplete n → step s = exec i (State.handOver
        { s with pending := moves, receiving := s.receiving - 1 } n)) ∧
      (i = .sendComplete →
        step s = exec i { s with pending := moves, sending := s.sending.tail }) ∧
      ((∀ n, i ≠ .rxComplete n) → i ≠ .sendComplete → step s = exec i { s with pending := moves })

/-- A step on a completed transfer runs the packet class of its header on the state in which USB has
placed the bytes and ended the receive request that the transfer answers, or RX_COMPLETE where the
transfer has no header (R101, R102, R147, R48). A transfer as one
move is the model's choice of form (logs 3 and 9). -/
def Obligations.StepRunsTransfer : Prop :=
  ∀ (s : State) (bs : List Byte) (moves : List Event), s.pending = .transfer bs :: moves →
    (∀ b0 b1 body, bs = b0 :: b1 :: body →
      decode (.received bs.length) [b0, b1] = .ok (classOf (hdrFromBytes b0 b1) bs.length) ∧
      step s = exec (classOf (hdrFromBytes b0 b1) bs.length)
        (State.deliver { s with pending := moves, receiving := s.receiving - 1 } bs)) ∧
    (bs.length < 2 →
      step s = exec (.rxComplete bs.length)
        (State.deliver { s with pending := moves, receiving := s.receiving - 1 } bs))

/-- Where no agent moves, the block waits and nothing changes (the model's choice, log 2; R10: it takes a
step only when invoked). -/
def Obligations.StepWithoutMoves : Prop :=
  ∀ s : State, s.pending = [] → step s = .next s

/-! ## Reset -/

/-- R33's table: the four control bits, and both buffers without a specified byte: each byte is whatever
the free value is. -/
def Obligations.ResetValues : Prop :=
  State.reset.txReady = false ∧ State.reset.inited = false ∧ State.reset.rxState = .idle ∧
  State.reset.txInflight = false ∧
  (∀ off, State.reset.rxByte off = Config.rxUnspecified State.reset.rxDraw off) ∧
  (∀ off, State.reset.txByte off = Config.txUnspecified off)

/-- The invariant holds at reset, and so does what holds beside it while completions are matched. -/
def Obligations.ResetMeetsInv : Prop := Inv State.reset ∧ Matched State.reset

/-- The invariant is kept by every step from every state that has it, whatever the agents do: the buffers
stay in canonical form, the gate is BUSY while the ghost `tx_inflight` is set (R29), a frame is lent
exactly in RX_HELD (R45), the latest send is a class packet while `tx_inflight` is set (R46, R131), and in
RX_ARMED USB carries a receive request (R24). The fields `lease`, `sending` and `receiving` are the model's
(log 6).

It needs no premise on the agents only because R120 ends the ghost at ANY SEND_COMPLETE, a stale or
spurious one included (log 10). Of every send that USB in truth carries, R29's first half, R46 and R131
hold where no unmatched completion comes (R176, R185, U10): that is StepKeepsMatched. -/
def Obligations.StepKeepsInv : Prop :=
  ∀ s t : State, Inv s → step s = .next t → Inv t

/-! ## Link control -/

/-- R90: INIT, first or repeated, from every state: two registrations, `inited` true, all else as it
was. -/
def Obligations.InitEffect : Prop :=
  ∀ s : State, exec .init s = .next
    { s with
      inited := true
      out := [.regCallback .epOut .rxComplete, .regCallback .epIn .sendComplete]
      result := none }

/-- `require inited` (R90): before INIT every operation but INIT is refused, whatever its operands. That
the packet classes and the header fill have this precondition is the model's reading (logs 3 and 4). -/
def Obligations.BeforeInitAllRefused : Prop :=
  ∀ (i : Instr) (s : State), s.inited = false → i ≠ .init → exec i s = .refused .notInited

/-- R91: CONFIG after INIT, from every state: one receive request for the whole buffer, RX_ARMED, the gate
READY, no send in flight; the buffers and all else as they were. A second CONFIG changes nothing more.
NET's lease ends (R175), and every transfer USB carried is invalidated, so that the one receive request is
all it carries (R48, R176). Before INIT it is refused. -/
def Obligations.ConfigEffect : Prop :=
  rowWord .config &&& 0x7#16 = 0x1#16 ∧ ∀ s : State,
    (s.inited = true → ∃ t, exec .config s = .next t ∧ exec .config t = .next t ∧
      t = { s with
        rxState := .armed
        txReady := true
        txInflight := false
        out := [.recvReq .epOut .RX 1520]
        result := none
        lease := none
        sending := []
        receiving := 1 }) ∧
    (s.inited = false → exec .config s = .refused .notInited)

/-! ## Receive path -/

/-- R100: RX_ARM after INIT, in each of the three receive states; before INIT it is refused. `receiving`
counts the request USB is given (R48). -/
def Obligations.RxArmEffect : Prop :=
  rowWord .rxArm &&& 0x7#16 = 0x2#16 ∧ ∀ s : State,
    (s.inited = true → s.rxState = .held → exec .rxArm s = .next
      { s with
        rxState := .armed
        out := [.recvReq .epOut .RX 1520]
        lease := none
        receiving := s.receiving + 1
        result := some (.arm .done) }) ∧
    (s.inited = true → s.rxState = .idle ∨ s.rxState = .armed → exec .rxArm s = .next
      { s with out := [], result := some (.arm .ignored) }) ∧
    (s.inited = false → exec .rxArm s = .refused .notInited)

/-- R101: RX_COMPLETE(n). Each of its three `require`s that fails, in their order, is a refusal. Where all
hold: which of the five outcomes it has, in the order of its tests (R149), from the header in `RX[0..2)`
and from `n`; on the four that drop, one receive request and RX_ARMED still; on the fifth, RX_HELD and
one FRAME_OUT. -/
def Obligations.RxCompleteOutcome : Prop :=
  ∀ (s : State) (n : Nat), rowWord (.rxComplete n) &&& 0x7#16 = 0x3#16 ∧
    let h := hdrFromBytes (s.rxByte 0) (s.rxByte 1)
    let dropped (why : RxStatus) : State :=
      { s with
        out := [.recvReq .epOut .RX 1520]
        lease := none
        receiving := s.receiving + 1
        result := some (.rx why) }
    (s.inited = false → exec (.rxComplete n) s = .refused .notInited) ∧
    (s.inited = true → s.rxState ≠ .armed → exec (.rxComplete n) s = .refused .rxNotArmed) ∧
    (s.inited = true → s.rxState = .armed → 1520 < n →
      exec (.rxComplete n) s = .refused (.overCapacity n)) ∧
    (s.inited = true → s.rxState = .armed → n ≤ 1520 →
      exec (.rxComplete n) s = .next (
        if n < 2 then dropped .short
        else if (hdrDecode h).bmType = true then dropped .control
        else if n < 6 then dropped .short
        else if 2 + (hdrDecode h).length.toNat > n then dropped .framing
        else { s with
          rxState := .held
          out := [.frameOut 2 (n - 6)]
          lease := some (2, n - 6)
          result := some (.rx .forwarded) }))

/-- R103: a control packet of any two bytes or more is discarded whole and the receive re-armed; nothing
but bit 15 of its header is looked at (R63). It is so for the packet class and for RX_COMPLETE on a
header with that bit set. That the class is this branch is the model's reading (log 3). -/
def Obligations.ControlPacketDiscarded : Prop :=
  ∀ (s : State) (low15 : BitVec 15) (n : Nat), s.inited = true → s.rxState = .armed → 2 ≤ n →
    n ≤ 1520 →
    let discarded : State :=
      { s with
        out := [.recvReq .epOut .RX 1520]
        lease := none
        receiving := s.receiving + 1
        result := some (.rx .control) }
    exec (.eemControl low15 n) s = .next discarded ∧
    ((hdrFromBytes (s.rxByte 0) (s.rxByte 1)).getLsbD 15 = true →
      exec (.rxComplete n) s = .next discarded)

/-- R104 to R107: a received data packet, with either value of `bmCRC` (R64): too short for a trailer,
declaring more than the transfer has, or forwarded by the transfer's size. That the classes are these
branches is the model's reading (log 3). -/
def Obligations.DataPacketOutcome : Prop :=
  ∀ (s : State) (length : BitVec 14) (n : Nat), s.inited = true → s.rxState = .armed → 2 ≤ n →
    n ≤ 1520 →
    let dropped (why : RxStatus) : State :=
      { s with
        out := [.recvReq .epOut .RX 1520]
        lease := none
        receiving := s.receiving + 1
        result := some (.rx why) }
    let answer : State :=
      if n < 6 then dropped .short
      else if 2 + length.toNat > n then dropped .framing
      else { s with
        rxState := .held
        out := [.frameOut 2 (n - 6)]
        lease := some (2, n - 6)
        result := some (.rx .forwarded) }
    exec (.eemDataSentinel length n) s = .next answer ∧ exec (.eemDataCrc length n) s = .next answer

/-- RX_COMPLETE(n) is the demultiplexer (R65, R101): with a header to read it does what the packet class
of that header does, in every state and for every `n` of two or more. The classes' operand `n` is the
model's reading (log 3). -/
def Obligations.RxCompleteRunsClass : Prop :=
  ∀ (s : State) (n : Nat), 2 ≤ n →
    exec (.rxComplete n) s = exec (classOf (hdrFromBytes (s.rxByte 0) (s.rxByte 1)) n) s

/-- R111, whole: the source's decode property. -/
def Obligations.DecodeStripsToPayload : Prop :=
  ∀ (s : State) (payload trailer : List Byte) (c : Bool), s.inited = true → s.rxState = .armed →
    payload.length ≤ 1514 → trailer.length = 4 →
    (∀ j, j < 2 + payload.length + 4 → some (s.rxByte j) =
      (hdrBytes (hdrEncode (payload.length + 4) c false) ++ payload ++ trailer)[j]?) →
    ∃ t, exec (.rxComplete (2 + payload.length + 4)) s = .next t ∧
      t.result = some (.rx .forwarded) ∧ t.out = [.frameOut 2 payload.length] ∧
      ∀ j, j < payload.length → some (t.rxByte (2 + j)) = payload[j]?

/-- The same through a step (R105 to R108, R111): a transfer that carries a data packet lends its payload
to the consumer, and every byte the consumer then reads is the payload's. -/
def Obligations.TransferLendsPayload : Prop :=
  ∀ (s : State) (payload trailer : List Byte) (c : Bool) (moves : List Event) (j : Nat),
    s.inited = true → s.rxState = .armed → payload.length ≤ 1514 → trailer.length = 4 →
    j < payload.length →
    s.pending = .transfer (hdrBytes (hdrEncode (payload.length + 4) c false) ++ payload ++ trailer) ::
      .access (.netRead (2 + j)) :: moves →
    ∃ t u, step s = .next t ∧ t.rxState = .held ∧ t.out = [.frameOut 2 payload.length] ∧
      step t = .next u ∧ u.seen = payload[j]?

/-- R103, R104, R109: FRAME_OUT is emitted by a data packet only, at most once, in RX_ARMED, and leaves
RX_HELD; a control packet never reaches the consumer. -/
def Obligations.FramesComeFromDataPackets : Prop :=
  ∀ (i : Instr) (s t : State) (off len : Nat), exec i s = .next t → .frameOut off len ∈ t.out →
    s.rxState = .armed ∧ t.rxState = .held ∧ t.out = [.frameOut off len] ∧ off = 2 ∧
    ((∃ n, i = .rxComplete n ∧ n = len + 6 ∧
        (hdrDecode (hdrFromBytes (s.rxByte 0) (s.rxByte 1))).bmType = false) ∨
      (∃ length n, (i = .eemDataSentinel length n ∨ i = .eemDataCrc length n) ∧ n = len + 6))

/-- R52: after a completed transfer the bytes of `RX` from `n` on are unspecified: a free value. The
transfer may come as one move, as RX_COMPLETE(n) alone (log 9), or as an unmatched completion (log 10). -/
def Obligations.BytesBeyondTransferAreFree : Prop :=
  ∀ (s t : State) (moves : List Event) (off : Nat), step s = .next t →
    (∀ bs : List Byte, s.pending = .transfer bs :: moves → bs.length ≤ off →
      t.rxByte off = Config.rxUnspecified s.nextDraw off) ∧
    (∀ n bs, s.pending = .call bs :: moves → decode .call bs = .ok (.rxComplete n) → n ≤ off →
      t.rxByte off = Config.rxUnspecified s.nextDraw off) ∧
    (∀ n, s.pending = .unmatched (.recv n) :: moves → n ≤ off →
      t.rxByte off = Config.rxUnspecified s.nextDraw off)

/-! ## Transmit path -/

/-- R120: SEND_COMPLETE after INIT, whatever the gate was: READY, the ghost `tx_inflight` false, all else as
it was; before INIT it is refused. The operation does not see which send its completion answers: that
USB carries one less is the invoker's (R48 point 6; StepRunsDecodedCall, StepRunsUnmatchedCompletion). -/
def Obligations.SendCompleteEffect : Prop :=
  rowWord .sendComplete &&& 0x7#16 = 0x4#16 ∧ ∀ s : State,
    (s.inited = true → exec .sendComplete s = .next
      { s with txReady := true, txInflight := false, out := [], result := none }) ∧
    (s.inited = false → exec .sendComplete s = .refused .notInited)

/-- R121: TX_READY after INIT returns the gate and changes nothing; before INIT it is refused. -/
def Obligations.TxReadyEffect : Prop :=
  rowWord .txReady &&& 0x7#16 = 0x5#16 ∧ ∀ s : State,
    (s.inited = true → exec .txReady s = .next
      { s with out := [], result := some (.ready s.txReady) }) ∧
    (s.inited = false → exec .txReady s = .refused .notInited)

/-- R122: CHAIN_TOTAL finds the first segment with `tot_len == len` and adds up the `len` fields to it, or
answers NoMarker where no segment has it; on a consistent chain the total is the first segment's
`tot_len` (R72); the rule's example. -/
def Obligations.ChainTotalFindsFirstMarker : Prop :=
  (∀ (chain : List Segment) (k total : Nat), chainTotal chain = .total k total ↔
    (∃ seg, chain[k]? = some seg ∧ seg.totLen = seg.payload.length) ∧
    (∀ j seg, j < k → chain[j]? = some seg → seg.totLen ≠ seg.payload.length) ∧
    total = ((chain.take (k + 1)).map (fun seg => seg.payload.length)).sum) ∧
  (∀ chain : List Segment, chainTotal chain = .noMarker ↔
    ∀ seg ∈ chain, seg.totLen ≠ seg.payload.length) ∧
  (∀ (chain : List Segment) (first : Segment) (k total : Nat), chainTotal (first :: chain) = .total k total →
    (∀ j seg, j ≤ k → (first :: chain)[j]? = some seg →
      seg.totLen = ((((first :: chain).take (k + 1)).drop j).map (fun seg => seg.payload.length)).sum) →
    total = first.totLen) ∧
  (∀ a b c d e f g h : Byte,
    chainTotal [⟨[a, b, c], 6⟩, ⟨[], 3⟩, ⟨[d, e, f], 3⟩, ⟨[g, h], 2⟩] = .total 2 6)

/-- R123: CHAIN_FLATTEN copies the payloads of segments 0 to `k`, in order, to `TX[2..2+L)`, leaves every
other byte of `TX` and everything else alone, and returns `L`. -/
def Obligations.ChainFlattenCopies : Prop :=
  ∀ (s : State) (chain : List Segment) (k total : Nat), chainTotal chain = .total k total →
    total ≤ 1514 →
    let r := chainFlatten s chain k
    r.2 = total ∧ r.1 = { s with tx := r.1.tx } ∧
    (∀ j, j < total → some (r.1.txByte (2 + j)) =
      ((chain.take (k + 1)).flatMap Segment.payload)[j]?) ∧
    (∀ off, off < 2 ∨ 2 + total ≤ off → r.1.txByte off = s.txByte off)

/-- R125: with the gate BUSY, XMIT_PACKET is a no-op for every chain, well-formed or not, and says
XMIT_BUSY. -/
def Obligations.XmitBusyDropsFrame : Prop :=
  ∀ (s : State) (chain : List Segment), s.inited = true → s.txReady = false →
    exec (.xmitPacket chain) s = .next { s with out := [], result := some (.xmit .busy) }

/-- R126, R127, R149: with the gate READY, a chain without marker is dropped as XMIT_MALFORMED and a chain
of more than 1514 bytes as XMIT_OVERSIZE, each with no state change. -/
def Obligations.XmitBadChainDropsFrame : Prop :=
  ∀ (s : State) (chain : List Segment), s.inited = true → s.txReady = true →
    (chainTotal chain = .noMarker →
      exec (.xmitPacket chain) s = .next { s with out := [], result := some (.xmit .malformed) }) ∧
    (∀ k total, chainTotal chain = .total k total → 1514 < total →
      exec (.xmitPacket chain) s = .next { s with out := [], result := some (.xmit .oversize) })

/-- R124, R128 to R131: with the gate READY and a chain of at most 1514 bytes, XMIT_PACKET sends: `TX`
holds header `L + 4`, payload, sentinel, and beyond them what it held; the gate is BUSY; one SEND_REQ of
`L + 6` bytes; everything else as it was. -/
def Obligations.XmitSendsPacket : Prop :=
  ∀ (s : State) (chain : List Segment) (k total : Nat), s.inited = true → s.txReady = true →
    chainTotal chain = .total k total → total ≤ 1514 →
    ∃ t, exec (.xmitPacket chain) s = .next t ∧
      t = { s with
        tx := t.tx
        txReady := false
        txInflight := true
        out := [.sendReq .epIn .TX (2 + (total + 4))]
        result := some (.xmit .sent)
        sending := s.sending ++ [2 + (total + 4)] } ∧
      (hdrFromBytes (t.txByte 0) (t.txByte 1)).toNat = total + 4 ∧
      (∀ j, j < total → some (t.txByte (2 + j)) =
        ((chain.take (k + 1)).flatMap Segment.payload)[j]?) ∧
      t.txByte (2 + total) = 0xDE ∧ t.txByte (2 + total + 1) = 0xAD ∧
      t.txByte (2 + total + 2) = 0xBE ∧ t.txByte (2 + total + 3) = 0xEF ∧
      (∀ off, 2 + total + 4 ≤ off → t.txByte off = s.txByte off)

/-- R68, R129: EEM_TX_HEADER, for every header the block produces and the gate READY: `TX[0]` is
`length[7:0]`, `TX[1]` is `length[13:8]` with both flag bits clear; every other byte of `TX` and
everything else as it was. With the gate BUSY nothing is written (R46, R125; the model's reading,
log 4). -/
def Obligations.TxHeaderFill : Prop :=
  ∀ (s : State) (length : BitVec 14), s.inited = true → (Instr.eemTxHeader length).WellFormed →
    (s.txReady = true → ∃ t, exec (.eemTxHeader length) s = .next t ∧
      t = { s with tx := t.tx, out := [], result := none } ∧
      (t.txByte 0).toNat = length.toNat % 256 ∧ (t.txByte 1).toNat = length.toNat / 256 ∧
      (∀ off, 2 ≤ off → t.txByte off = s.txByte off)) ∧
    (s.txReady = false → exec (.eemTxHeader length) s = .next
      { s with out := [], result := some (.xmit .busy) })

/-- R129: the header is filled last: what XMIT_PACKET leaves in `TX` is what EEM_TX_HEADER with
`L + 4` leaves there when the payload and the sentinel are in place. -/
def Obligations.XmitFillsHeaderLast : Prop :=
  ∀ (s t : State) (chain : List Segment) (k total : Nat), s.txReady = true →
    chainTotal chain = .total k total → total ≤ 1514 → exec (.xmitPacket chain) s = .next t →
    ∃ u v, u = ((chainFlatten s chain k).1).txWrite (2 + total) [0xDE, 0xAD, 0xBE, 0xEF] ∧
      exec (.eemTxHeader (BitVec.ofNat 14 (total + 4))) u = .next v ∧ t.tx = v.tx

/-- R68: every header XMIT_PACKET leaves with a SEND_REQ is a data header without CRC, of value 0x0004 to
0x05EE, and the packet is 6 to 1520 bytes (R75). -/
def Obligations.ProducedHeaderRange : Prop :=
  ∀ (s t : State) (chain : List Segment), exec (.xmitPacket chain) s = .next t →
    t.result = some (.xmit .sent) →
    let h := hdrFromBytes (t.txByte 0) (t.txByte 1)
    (hdrDecode h).bmType = false ∧ (hdrDecode h).bmCRC = false ∧ h &&& 0xC000#16 = 0#16 ∧
    0x0004 ≤ h.toNat ∧ h.toNat ≤ 0x05EE ∧
    t.out = [.sendReq .epIn .TX (2 + h.toNat)] ∧ 6 ≤ 2 + h.toNat ∧ 2 + h.toNat ≤ 1520

/-- R83: the source's round-trip property. The bytes XMIT_PACKET sends, received in RX_ARMED by a framer
in any other state, come out as the chain's payload. -/
def Obligations.XmitThenReceive : Prop :=
  ∀ (s t : State) (chain : List Segment) (k total m : Nat) (r : State),
    chainTotal chain = .total k total → exec (.xmitPacket chain) s = .next t →
    t.result = some (.xmit .sent) → t.out = [.sendReq .epIn .TX m] →
    r.inited = true → r.rxState = .armed → (∀ off, off < m → r.rxByte off = t.txByte off) →
    ∃ u, exec (.rxComplete m) r = .next u ∧ u.result = some (.rx .forwarded) ∧
      u.out = [.frameOut 2 total] ∧
      ((chain.take (k + 1)).flatMap Segment.payload).length = total ∧
      ∀ j, j < total → some (u.rxByte (2 + j)) =
        ((chain.take (k + 1)).flatMap Segment.payload)[j]?

/-- R132's table, complete: what each operation that goes through makes of the gate, with the output
the table gives, and the gate at reset. The packet classes and the header fill keep it as parts of their
operations (logs 3 and 4). -/
def Obligations.GateMachine : Prop :=
  State.reset.txReady = false ∧ ∀ (i : Instr) (s t : State), exec i s = .next t →
    match i with
    | .config => t.txReady = true ∧ t.out = [.recvReq .epOut .RX 1520]
    | .sendComplete => t.txReady = true ∧ t.out = []
    | .xmitPacket _ =>
      (t.result = some (.xmit .sent) ∧ s.txReady = true ∧ t.txReady = false ∧
        ∃ len, t.out = [.sendReq .epIn .TX len]) ∨
      ((t.result = some (.xmit .oversize) ∨ t.result = some (.xmit .malformed)) ∧
        s.txReady = true ∧ t.txReady = true ∧ t.out = []) ∨
      (t.result = some (.xmit .busy) ∧ s.txReady = false ∧ t.txReady = false ∧ t.out = [])
    | .init => t.txReady = s.txReady
    | .rxArm => t.txReady = s.txReady
    | .rxComplete _ => t.txReady = s.txReady
    | .txReady => t.txReady = s.txReady
    | .eemDataSentinel _ _ => t.txReady = s.txReady
    | .eemDataCrc _ _ => t.txReady = s.txReady
    | .eemControl _ _ => t.txReady = s.txReady
    | .eemTxHeader _ => t.txReady = s.txReady

/-! ## Frames -/

/-- R35's access table, the link and receive side: what INIT, CONFIG, RX_ARM, RX_COMPLETE and the packet
classes leave unchanged: every element the table gives them no write of, and every byte of both
buffers. -/
def Obligations.ReceiveSideFrame : Prop :=
  ∀ (i : Instr) (s t : State), exec i s = .next t →
    match i with
    | .init =>
      SameRx s t ∧ SameTx s t ∧ SameAgents s t ∧ t.txReady = s.txReady ∧ t.rxState = s.rxState ∧
        t.txInflight = s.txInflight ∧ t.lease = s.lease ∧ t.sending = s.sending ∧
        t.receiving = s.receiving
    | .config => SameRx s t ∧ SameTx s t ∧ SameAgents s t ∧ t.inited = s.inited
    | .rxArm =>
      SameRx s t ∧ SameTx s t ∧ SameAgents s t ∧ t.inited = s.inited ∧ t.txReady = s.txReady ∧
        t.txInflight = s.txInflight ∧ t.sending = s.sending
    | .rxComplete _ =>
      SameRx s t ∧ SameTx s t ∧ SameAgents s t ∧ t.inited = s.inited ∧ t.txReady = s.txReady ∧
        t.txInflight = s.txInflight ∧ t.sending = s.sending
    | .eemDataSentinel _ _ =>
      SameRx s t ∧ SameTx s t ∧ SameAgents s t ∧ t.inited = s.inited ∧ t.txReady = s.txReady ∧
        t.txInflight = s.txInflight ∧ t.sending = s.sending
    | .eemDataCrc _ _ =>
      SameRx s t ∧ SameTx s t ∧ SameAgents s t ∧ t.inited = s.inited ∧ t.txReady = s.txReady ∧
        t.txInflight = s.txInflight ∧ t.sending = s.sending
    | .eemControl _ _ =>
      SameRx s t ∧ SameTx s t ∧ SameAgents s t ∧ t.inited = s.inited ∧ t.txReady = s.txReady ∧
        t.txInflight = s.txInflight ∧ t.sending = s.sending ∧ t.rxState = s.rxState
    | .sendComplete => True
    | .txReady => True
    | .xmitPacket _ => True
    | .eemTxHeader _ => True

/-- R35's access table, the transmit side: what SEND_COMPLETE, TX_READY, XMIT_PACKET and EEM_TX_HEADER
leave unchanged. XMIT_PACKET stores to `TX[0..xmitStored)`, with the number of bytes its own meaning
computes, and EEM_TX_HEADER to `TX[0..2)`; every byte outside reads as before. R35 has no row for
EEM_TX_HEADER: that it keeps what XMIT_PACKET keeps, the gate and the send besides, and that with the
gate BUSY it leaves `TX`, is the model's reading (log 4, DEDUCED and DESIGN CHOICE, unsafe). -/
def Obligations.TransmitSideFrame : Prop :=
  ∀ (i : Instr) (s t : State), exec i s = .next t →
    match i with
    | .sendComplete =>
      SameRx s t ∧ SameTx s t ∧ SameAgents s t ∧ t.inited = s.inited ∧ t.rxState = s.rxState ∧
        t.lease = s.lease ∧ t.sending = s.sending ∧ t.receiving = s.receiving
    | .txReady =>
      SameRx s t ∧ SameTx s t ∧ SameAgents s t ∧ t.inited = s.inited ∧ t.rxState = s.rxState ∧
        t.lease = s.lease ∧ t.txReady = s.txReady ∧ t.txInflight = s.txInflight ∧
        t.sending = s.sending ∧ t.receiving = s.receiving
    | .xmitPacket chain =>
      SameRx s t ∧ SameAgents s t ∧ t.inited = s.inited ∧ t.rxState = s.rxState ∧
        t.lease = s.lease ∧ t.receiving = s.receiving ∧ (∀ off, xmitStored chain s ≤ off → t.txByte off = s.txByte off) ∧
        (xmitStored chain s = 0 → t.txReady = s.txReady ∧ t.txInflight = s.txInflight ∧
          t.sending = s.sending)
    | .eemTxHeader _ =>
      SameRx s t ∧ SameAgents s t ∧ t.inited = s.inited ∧ t.rxState = s.rxState ∧
        t.lease = s.lease ∧ t.txReady = s.txReady ∧ t.txInflight = s.txInflight ∧
        t.sending = s.sending ∧ t.receiving = s.receiving ∧ (∀ off, 2 ≤ off → t.txByte off = s.txByte off) ∧
        (s.txReady = false → SameTx s t)
    | .init => True
    | .config => True
    | .rxArm => True
    | .rxComplete _ => True
    | .eemDataSentinel _ _ => True
    | .eemDataCrc _ _ => True
    | .eemControl _ _ => True

/-! ## Rules of the whole machine -/

/-- R140: no operation of the block faults, whatever the instruction and the state. -/
def Obligations.NoOperationFaults : Prop :=
  ∀ (i : Instr) (s : State) (f : Fault), exec i s ≠ .fault f

/-- R22: the ENGINE never writes `RX`, and no operation but XMIT_PACKET (and the header fill that is part of
it) writes `TX` (R23), and they only with the gate READY (R46). For XMIT_PACKET that is the spec's; that
EEM_TX_HEADER by itself writes nothing with the gate BUSY is the model's choice (log 4, DESIGN CHOICE,
unsafe). -/
def Obligations.EngineWritesOnlyTx : Prop :=
  ∀ (i : Instr) (s t : State), exec i s = .next t →
    SameRx s t ∧
    ((∀ chain, i ≠ .xmitPacket chain) → (∀ length, i ≠ .eemTxHeader length) → SameTx s t) ∧
    (s.txReady = false → SameTx s t)

/-- R29, its second half: SEND_REQ is emitted only by an operation that found the gate READY, and that
operation leaves it BUSY with one send in flight. -/
def Obligations.SendOnlyWhenReady : Prop :=
  ∀ (i : Instr) (s t : State) (ep : Endpoint) (buf : Space) (len : Nat), exec i s = .next t →
    .sendReq ep buf len ∈ t.out →
    s.txReady = true ∧ t.txReady = false ∧ t.txInflight = true ∧ t.out = [.sendReq .epIn .TX len] ∧
    ∃ chain, i = .xmitPacket chain

/-- R32: a receive request is always for the whole of `RX`, at most one an operation, and leaves RX_ARMED;
it comes from CONFIG, from RX_ARM in RX_HELD, or from a completed transfer. It is one more for USB to
carry, or after CONFIG the only one; that no other is then outstanding is StepKeepsMatched. An operation
that issues none leaves the count alone. -/
def Obligations.OneReceiveRequest : Prop :=
  (∀ (i : Instr) (s t : State) (ep : Endpoint) (buf : Space) (cap : Nat), exec i s = .next t →
    .recvReq ep buf cap ∈ t.out →
    t.rxState = .armed ∧ t.out = [.recvReq .epOut .RX 1520] ∧
    (i = .config → t.receiving = 1) ∧ (i ≠ .config → t.receiving = s.receiving + 1) ∧
    (i = .config ∨ (i = .rxArm ∧ s.rxState = .held) ∨
      (needsTransfer i = true ∧ s.rxState = .armed))) ∧
  (∀ (i : Instr) (s t : State), exec i s = .next t →
    (∀ ep buf cap, .recvReq ep buf cap ∉ t.out) → t.receiving = s.receiving)

/-- R30, R93: no step but one that runs CONFIG leaves RX_IDLE, no step at all returns to it, and INIT is
never undone. -/
def Obligations.LinkComesUpByConfigOnly : Prop :=
  ∀ s t : State, step s = .next t →
    (s.rxState ≠ .idle → t.rxState ≠ .idle) ∧
    (s.rxState = .idle → t.rxState = .idle ∨
      ∃ bs moves, s.pending = .call bs :: moves ∧ decode .call bs = .ok .config) ∧
    (s.inited = true → t.inited = true)

/-- R51: a lent frame lies inside `RX` with room for its trailer, and a sent packet inside `TX`. -/
def Obligations.ExtentsInsideBuffers : Prop :=
  ∀ (i : Instr) (s t : State), exec i s = .next t →
    (∀ off len, .frameOut off len ∈ t.out → off = 2 ∧ off + len + 4 ≤ 1520) ∧
    (∀ ep buf len, .sendReq ep buf len ∈ t.out → 6 ≤ len ∧ len ≤ 1520)

/-- R186: where the agents keep their duties on the next move, the step goes through: it is neither
refused nor a fault. A completion keeps its duty only as the answer to a request USB carries. -/
def Obligations.DutiesSuffice : Prop :=
  ∀ (s : State) (e : Event) (moves : List Event), s.pending = e :: moves → duty e s →
    ∃ t, step s = .next t

/-- R46, R184: while the gate is BUSY, no step of any agent changes a byte of `TX`. That USB so transmits
the bytes `TX` held when SEND_REQ was emitted needs U10's premise beside it, under which the gate is BUSY
for as long as USB carries the send (StepKeepsMatched); StaleCompletionLosesSend shows the run without it. -/
def Obligations.TxStableWhileBusy : Prop :=
  ∀ s t : State, s.txReady = false → step s = .next t → SameTx s t

/-- R45, R186: while NET holds a frame, no step changes a byte of `RX` where USB keeps its duty not to
write there. -/
def Obligations.RxStableWhileHeld : Prop :=
  ∀ s t : State, s.rxState = .held →
    (∀ off b moves, s.pending ≠ .access (.usbWrite off b) :: moves) →
    step s = .next t → SameRx s t

/-- R45: USB's write to a byte of `RX` while armed stores that byte, leaves every other byte and everything
else alone, and is neither refused nor a fault. -/
def Obligations.UsbWriteStoresByte : Prop :=
  ∀ (s : State) (off : Nat) (b : Byte) (moves : List Event), s.rxState = .armed → off < 1520 →
    s.pending = .access (.usbWrite off b) :: moves →
    ∃ t, step s = .next t ∧ t = { s with rx := t.rx, pending := moves } ∧ t.rxByte off = b ∧
      ∀ a, a ≠ off → t.rxByte a = s.rxByte a

/-- R45, R46, R174: a read inside the reader's window gives the byte of the buffer; a read outside it
gives an unspecified byte (the model's free value, log 8); neither changes a buffer or a control bit.
USB's window is that of every send it carries, until the completion that answers it (log 10). -/
def Obligations.ReadsThroughWindows : Prop :=
  ∀ (s : State) (off : Nat) (moves : List Event), off < 1520 →
    (s.pending = .access (.netRead off) :: moves →
      ∃ t, step s = .next t ∧
        t = { s with pending := moves, seen := t.seen, nextDraw := t.nextDraw } ∧
        t.seen = some (if inLease s off then s.rxByte off else Config.strayRead s.nextDraw)) ∧
    (s.pending = .access (.usbRead off) :: moves →
      ∃ t, step s = .next t ∧
        t = { s with pending := moves, seen := t.seen, nextDraw := t.nextDraw } ∧
        t.seen = some (if inSend s off then s.txByte off else Config.strayRead s.nextDraw))

/-- R144, R177: a BUSY gate stays BUSY through every step but one that runs SEND_COMPLETE, matched or not
(R176), or CONFIG; every XMIT_PACKET on the way is XMIT_BUSY. -/
def Obligations.StuckBusyUntilCompletion : Prop :=
  ∀ s t : State, s.txReady = false → step s = .next t →
    t.txReady = false ∨
    (∃ bs moves, s.pending = .call bs :: moves ∧
      (decode .call bs = .ok .sendComplete ∨ decode .call bs = .ok .config)) ∨
    ∃ moves, s.pending = .unmatched .send :: moves

/-! ## Completions that answer no request (R176, R185, R186) -/

/-- A step on an unmatched completion runs the same operation as a matched one, since the block cannot
tell (R176), but USB goes on carrying every request it carries. -/
def Obligations.StepRunsUnmatchedCompletion : Prop :=
  ∀ (s : State) (moves : List Event),
    (s.pending = .unmatched .send :: moves →
      step s = exec .sendComplete { s with pending := moves }) ∧
    (∀ n, s.pending = .unmatched (.recv n) :: moves →
      step s = exec (.rxComplete n) (State.handOver { s with pending := moves } n))

/-- R29, R32, R46, R131 of every request USB in truth carries: from each state in which they hold, they hold
after a step whose move is no unmatched completion, the premise U10 asks for. No other duty of R186 is
needed. -/
def Obligations.StepKeepsMatched : Prop :=
  ∀ s t : State, Inv s → Matched s →
    (∀ c moves, s.pending ≠ .unmatched c :: moves) → step s = .next t → Matched t

/-- R176, R185: a stale SEND_COMPLETE while USB carries a send turns the gate true with the send still in
flight, changes nothing else, and so the gate invariant of R29 fails, from every state. -/
def Obligations.StaleCompletionOpensGate : Prop :=
  ∀ (s : State) (moves : List Event), s.inited = true → s.sending ≠ [] →
    s.pending = .unmatched .send :: moves →
    ∃ t, step s = .next t ∧ ¬ GateInvariant t ∧
      t = { s with
        pending := moves
        txReady := true
        txInflight := false
        out := []
        result := none }

/-- R176: after a stale SEND_COMPLETE the next XMIT_PACKET overwrites `TX` under USB's reader: USB then
carries both sends (R32 fails), and a byte it reads of the earlier one is the new packet's. -/
def Obligations.StaleCompletionLosesSend : Prop :=
  ∀ (s : State) (chain : List Segment) (k total len j : Nat) (moves : List Event),
    s.inited = true → s.sending = [len] → chainTotal chain = .total k total → total ≤ 1514 →
    j < total → 2 + j < len →
    s.pending = .unmatched .send :: .call (encode (.xmitPacket chain)) ::
      .access (.usbRead (2 + j)) :: moves →
    ∃ t u v, step s = .next t ∧ step t = .next u ∧ step u = .next v ∧
      u.result = some (.xmit .sent) ∧ u.sending = [len, 2 + (total + 4)] ∧
      v.seen = (chainPayload chain k)[j]?

/-- R176, R32: an RX_COMPLETE of a receive that a CONFIG has invalidated, in RX_ARMED, runs like any other,
and USB still carries the new request: either the block issues one beside it, or NET holds a frame while
USB may write `RX`. In both, what R32 and R24 say of receive requests fails. -/
def Obligations.StaleReceiveBreaksOneRequest : Prop :=
  ∀ (s : State) (n : Nat) (moves : List Event), s.inited = true → s.rxState = .armed → n ≤ 1520 →
    s.receiving = 1 → s.pending = .unmatched (.recv n) :: moves →
    ∃ t, step s = .next t ∧ ¬ Matched t ∧
      ((t.rxState = .armed ∧ t.receiving = 2) ∨ (t.rxState = .held ∧ t.receiving = 1))

/-- R186: where the agents keep their duties, a step goes through, and what holds of the requests USB
carries goes on holding, with R29. A stale, second or spurious completion keeps no duty: not as an
unmatched one, and not as a call where USB carries no request of its direction. -/
def Obligations.DutiesKeepMatched : Prop :=
  (∀ (s : State) (e : Event) (moves : List Event), Inv s → Matched s → s.pending = e :: moves →
    duty e s → ∃ t, step s = .next t ∧ Inv t ∧ Matched t ∧ GateInvariant t) ∧
  (∀ (c : Completion) (s : State), ¬ duty (.unmatched c) s) ∧
  (∀ (bs : List Byte) (s : State), decode .call bs = .ok .sendComplete → s.sending = [] →
    ¬ duty (.call bs) s) ∧
  (∀ (bs : List Byte) (n : Nat) (s : State), decode .call bs = .ok (.rxComplete n) →
    s.receiving = 0 → ¬ duty (.call bs) s) ∧
  (∀ (bs : List Byte) (s : State), s.receiving = 0 → ¬ duty (.transfer bs) s)
end

