-- ==== Sys2Proof/Laws/Codec.lean ====
section
/-!
SUPPORT. The header codec in arithmetic, and the laws of numbers and chains as bytes.
-/

namespace Sys2Proof

theorem hdrFromBytes_hdrBytes (h : Half) :
    hdrFromBytes (h.setWidth 8) ((h >>> 8).setWidth 8) = h := by
  apply BitVec.eq_of_getLsbD_eq
  intro j hj
  simp only [hdrFromBytes, BitVec.getLsbD_or, BitVec.getLsbD_setWidth, BitVec.getLsbD_shiftLeft,
    BitVec.getLsbD_ushiftRight]
  interval_cases j <;> simp

theorem hdrDecode_hdrEncode_length (length : Nat) (c t : Bool) :
    (hdrDecode (hdrEncode length c t)).length = BitVec.ofNat 14 length := by
  apply BitVec.eq_of_getLsbD_eq
  intro j hj
  simp only [hdrDecode, hdrEncode, flagBit, BitVec.getLsbD_setWidth, BitVec.getLsbD_or,
    BitVec.getLsbD_and, BitVec.getLsbD_shiftLeft, BitVec.getLsbD_ofNat]
  interval_cases j <;> simp <;> exact fun _ => rfl

theorem hdrDecode_hdrEncode_bmCRC (length : Nat) (c t : Bool) :
    (hdrDecode (hdrEncode length c t)).bmCRC = c := by
  cases c <;> cases t <;> simp [hdrDecode, hdrEncode, flagBit]

theorem hdrDecode_hdrEncode_bmType (length : Nat) (c t : Bool) :
    (hdrDecode (hdrEncode length c t)).bmType = t := by
  cases c <;> cases t <;> simp [hdrDecode, hdrEncode, flagBit]

/-- A number's bytes read back, whatever stands after them. -/
theorem readNat_natBytesFuel (fuel n : Nat) (h : n ≤ fuel) (rest : List Byte) :
    readNat (natBytesFuel fuel n ++ rest) = some (n, rest) := by
  induction fuel generalizing n with
  | zero =>
    obtain rfl : n = 0 := by omega
    simp [natBytesFuel, readNat]
  | succ fuel ih =>
    simp only [natBytesFuel]
    split
    · rename_i hn
      simp [readNat, Nat.mod_eq_of_lt (show n < 256 by omega), hn]
    · rename_i hn
      simp only [List.cons_append, readNat, BitVec.toNat_ofNat]
      rw [if_neg (by omega), ih _ (by omega)]
      simp only [Option.some.injEq, Prod.mk.injEq, and_true]
      omega

theorem readNat_natBytes (n : Nat) (rest : List Byte) :
    readNat (natBytes n ++ rest) = some (n, rest) :=
  readNat_natBytesFuel n n (Nat.le_refl n) rest

theorem readSegment_segmentBytes (seg : Segment) (rest : List Byte) :
    readSegment (segmentBytes seg ++ rest) = some (seg, rest) := by
  simp only [readSegment, segmentBytes, List.append_assoc, readNat_natBytes]
  simp

theorem readSegments_flatMap (chain : List Segment) (rest : List Byte) :
    readSegments chain.length (chain.flatMap segmentBytes ++ rest) = some (chain, rest) := by
  induction chain with
  | nil => rfl
  | cons seg chain ih =>
    simp only [List.length_cons, List.flatMap_cons, List.append_assoc, readSegments,
      readSegment_segmentBytes, ih]

/-- A chain's bytes read back. -/
theorem readChain_chainBytes (chain : List Segment) (rest : List Byte) :
    readChain (chainBytes chain ++ rest) = some (chain, rest) := by
  simp only [readChain, chainBytes, List.append_assoc, readNat_natBytes, readSegments_flatMap]

end Sys2Proof
end

