-- ==== Sys2Proof/Laws/Memory.lean ====
section
/-!
SUPPORT. The laws of a buffer's contents: a write is read back, leaves every other byte alone, and keeps
the canonical form.
-/

namespace Sys2Proof.Machine

@[simp] theorem Memory.read_nil (a : Nat) : Memory.read [] a = none := rfl

theorem Memory.read_cons (b : Nat) (v : Byte) (m : Memory) (a : Nat) :
    Memory.read ((b, v) :: m) a = if a = b then some v else Memory.read m a := rfl

/-- A byte written is read back; every other byte reads as before. -/
theorem Memory.read_write (m : Memory) (a b : Nat) (v : Byte) :
    (m.write a v).read b = if b = a then some v else m.read b := by
  induction m with
  | nil => simp [Memory.write, Memory.read_cons]
  | cons c m ih =>
    obtain ⟨x, w⟩ := c
    simp only [Memory.write]
    split
    · simp [Memory.read_cons]
    · split
      · simp only [Memory.read_cons]
        grind
      · simp only [Memory.read_cons, ih]
        grind

theorem Memory.mem_write {m : Memory} {a : Nat} {v : Byte} {c : Host.Cell} (h : c ∈ m.write a v) :
    c = (a, v) ∨ c ∈ m := by
  induction m with
  | nil => simpa [Memory.write] using h
  | cons d m ih =>
    obtain ⟨x, w⟩ := d
    simp only [Memory.write] at h
    split at h
    · simpa using h
    · split at h
      · rcases List.mem_cons.1 h with h | h
        · exact .inl h
        · exact .inr (List.mem_cons_of_mem _ h)
      · rcases List.mem_cons.1 h with h | h
        · exact .inr (h ▸ List.mem_cons_self)
        · rcases ih h with h | h
          · exact .inl h
          · exact .inr (List.mem_cons_of_mem _ h)

/-- A write inside the buffer keeps the canonical form. -/
theorem Memory.wf_write {m : Memory} (h : m.wf) {a : Nat} (ha : a < Config.bufCap) (v : Byte) :
    (m.write a v).wf := by
  refine ⟨?_, ?_⟩
  · have hp := h.1
    clear h
    induction m with
    | nil => simp [Memory.write]
    | cons d m ih =>
      obtain ⟨x, w⟩ := d
      simp only [List.pairwise_cons] at hp
      simp only [Memory.write]
      split
      · simp only [List.pairwise_cons, List.mem_cons]
        refine ⟨?_, hp⟩
        rintro c (rfl | hc)
        · assumption
        · have := hp.1 c hc
          omega
      · split
        · subst a
          exact List.pairwise_cons.2 ⟨hp.1, hp.2⟩
        · refine List.pairwise_cons.2 ⟨?_, ih hp.2⟩
          intro c hc
          rcases Memory.mem_write hc with rfl | hc
          · change x < a
            omega
          · exact hp.1 c hc
  · intro c hc
    rcases Memory.mem_write hc with rfl | hc
    · exact ha
    · exact h.2 c hc

/-- Bytes written one after another are read back; the others read as before. -/
theorem Memory.read_writeBytes (m : Memory) (a b : Nat) (vs : List Byte) :
    (m.writeBytes a vs).read b = if a ≤ b ∧ b < a + vs.length then vs[b - a]? else m.read b := by
  induction vs generalizing m a with
  | nil =>
    simp only [Memory.writeBytes, List.length_nil]
    rw [if_neg (by omega)]
  | cons v vs ih =>
    simp only [Memory.writeBytes, ih, Memory.read_write, List.length_cons]
    by_cases h1 : a = b
    · subst h1
      rw [if_neg (by omega)]
      simp
    · by_cases h2 : a + 1 ≤ b ∧ b < a + 1 + vs.length
      · rw [if_pos h2, if_pos (by omega)]
        obtain ⟨d, hd⟩ : ∃ d, b - a = d + 1 := ⟨b - a - 1, by omega⟩
        rw [hd, List.getElem?_cons_succ]
        congr 1
        omega
      · rw [if_neg h2, if_neg (by omega), if_neg (by omega)]

/-- Bytes written inside the buffer keep the canonical form. -/
theorem Memory.wf_writeBytes {m : Memory} (h : m.wf) {a : Nat} {vs : List Byte}
    (ha : a + vs.length ≤ Config.bufCap) : (m.writeBytes a vs).wf := by
  induction vs generalizing m a with
  | nil => exact h
  | cons v vs ih =>
    simp only [List.length_cons] at ha
    exact ih (Memory.wf_write h (by omega) v) (by omega)

theorem Memory.writeBytes_append (m : Memory) (a : Nat) (us vs : List Byte) :
    m.writeBytes a (us ++ vs) = (m.writeBytes a us).writeBytes (a + us.length) vs := by
  induction us generalizing m a with
  | nil => rfl
  | cons u us ih =>
    simp only [List.cons_append, Memory.writeBytes, ih, List.length_cons]
    congr 1
    omega

/-- Bytes below `n` read as before; from `n` on there is no specified byte. -/
theorem Memory.read_forgetFrom (m : Memory) (n b : Nat) :
    (m.forgetFrom n).read b = if b < n then m.read b else none := by
  induction m with
  | nil => simp [Memory.forgetFrom]
  | cons c m ih =>
    obtain ⟨x, w⟩ := c
    simp only [Memory.forgetFrom] at ih ⊢
    by_cases hx : x < n
    · rw [List.filter_cons_of_pos (by simpa using hx)]
      simp only [Memory.read_cons, ih]
      grind
    · rw [List.filter_cons_of_neg (by simpa using hx), ih, Memory.read_cons]
      grind

/-- Forgetting bytes keeps the canonical form. -/
theorem Memory.wf_forgetFrom {m : Memory} (h : m.wf) (n : Nat) : (m.forgetFrom n).wf :=
  ⟨h.1.filter _, fun c hc => h.2 c (List.mem_filter.1 hc).1⟩

theorem Memory.wf_nil : Memory.wf [] := ⟨List.Pairwise.nil, by simp⟩

end Sys2Proof.Machine
end

