-- ==== Sys2Proof/Laws/State.lean ====
section
/-!
SUPPORT. One lemma per field and update of the state, true by definition.
-/

namespace Sys2Proof.Machine

@[simp] theorem State.enter_inited (s : State) : (s.enter).inited = s.inited := rfl
@[simp] theorem State.enter_txReady (s : State) : (s.enter).txReady = s.txReady := rfl
@[simp] theorem State.enter_rxState (s : State) : (s.enter).rxState = s.rxState := rfl
@[simp] theorem State.enter_txInflight (s : State) : (s.enter).txInflight = s.txInflight := rfl
@[simp] theorem State.enter_rx (s : State) : (s.enter).rx = s.rx := rfl
@[simp] theorem State.enter_tx (s : State) : (s.enter).tx = s.tx := rfl
@[simp] theorem State.enter_out (s : State) : (s.enter).out = [] := rfl
@[simp] theorem State.enter_result (s : State) : (s.enter).result = none := rfl
@[simp] theorem State.enter_lease (s : State) : (s.enter).lease = s.lease := rfl
@[simp] theorem State.enter_sending (s : State) : (s.enter).sending = s.sending := rfl
@[simp] theorem State.enter_receiving (s : State) : (s.enter).receiving = s.receiving := rfl
@[simp] theorem State.enter_seen (s : State) : (s.enter).seen = s.seen := rfl
@[simp] theorem State.enter_rxDraw (s : State) : (s.enter).rxDraw = s.rxDraw := rfl
@[simp] theorem State.enter_nextDraw (s : State) : (s.enter).nextDraw = s.nextDraw := rfl
@[simp] theorem State.enter_pending (s : State) : (s.enter).pending = s.pending := rfl

@[simp] theorem State.finish_inited (s : State) (r : Result) : (s.finish r).inited = s.inited := rfl
@[simp] theorem State.finish_txReady (s : State) (r : Result) : (s.finish r).txReady = s.txReady := rfl
@[simp] theorem State.finish_rxState (s : State) (r : Result) : (s.finish r).rxState = s.rxState := rfl
@[simp] theorem State.finish_txInflight (s : State) (r : Result) : (s.finish r).txInflight = s.txInflight := rfl
@[simp] theorem State.finish_rx (s : State) (r : Result) : (s.finish r).rx = s.rx := rfl
@[simp] theorem State.finish_tx (s : State) (r : Result) : (s.finish r).tx = s.tx := rfl
@[simp] theorem State.finish_out (s : State) (r : Result) : (s.finish r).out = s.out := rfl
@[simp] theorem State.finish_result (s : State) (r : Result) : (s.finish r).result = some r := rfl
@[simp] theorem State.finish_lease (s : State) (r : Result) : (s.finish r).lease = s.lease := rfl
@[simp] theorem State.finish_sending (s : State) (r : Result) : (s.finish r).sending = s.sending := rfl
@[simp] theorem State.finish_receiving (s : State) (r : Result) : (s.finish r).receiving = s.receiving := rfl
@[simp] theorem State.finish_seen (s : State) (r : Result) : (s.finish r).seen = s.seen := rfl
@[simp] theorem State.finish_rxDraw (s : State) (r : Result) : (s.finish r).rxDraw = s.rxDraw := rfl
@[simp] theorem State.finish_nextDraw (s : State) (r : Result) : (s.finish r).nextDraw = s.nextDraw := rfl
@[simp] theorem State.finish_pending (s : State) (r : Result) : (s.finish r).pending = s.pending := rfl

@[simp] theorem State.emit_inited (s : State) (a : Action) : (s.emit a).inited = s.inited := rfl
@[simp] theorem State.emit_txReady (s : State) (a : Action) : (s.emit a).txReady = s.txReady := rfl
@[simp] theorem State.emit_rxState (s : State) (a : Action) : (s.emit a).rxState = s.rxState := rfl
@[simp] theorem State.emit_txInflight (s : State) (a : Action) : (s.emit a).txInflight = s.txInflight := rfl
@[simp] theorem State.emit_rx (s : State) (a : Action) : (s.emit a).rx = s.rx := rfl
@[simp] theorem State.emit_tx (s : State) (a : Action) : (s.emit a).tx = s.tx := rfl
@[simp] theorem State.emit_out (s : State) (a : Action) : (s.emit a).out = s.out ++ [a] := rfl
@[simp] theorem State.emit_result (s : State) (a : Action) : (s.emit a).result = s.result := rfl
@[simp] theorem State.emit_lease (s : State) (a : Action) : (s.emit a).lease = a.leaseAfter s.lease := rfl
@[simp] theorem State.emit_sending (s : State) (a : Action) : (s.emit a).sending = a.sendingAfter s.sending := rfl
@[simp] theorem State.emit_receiving (s : State) (a : Action) : (s.emit a).receiving = a.receivingAfter s.receiving := rfl
@[simp] theorem State.emit_seen (s : State) (a : Action) : (s.emit a).seen = s.seen := rfl
@[simp] theorem State.emit_rxDraw (s : State) (a : Action) : (s.emit a).rxDraw = s.rxDraw := rfl
@[simp] theorem State.emit_nextDraw (s : State) (a : Action) : (s.emit a).nextDraw = s.nextDraw := rfl
@[simp] theorem State.emit_pending (s : State) (a : Action) : (s.emit a).pending = s.pending := rfl

@[simp] theorem State.setRx_inited (s : State) (r : RxState) : (s.setRx r).inited = s.inited := rfl
@[simp] theorem State.setRx_txReady (s : State) (r : RxState) : (s.setRx r).txReady = s.txReady := rfl
@[simp] theorem State.setRx_rxState (s : State) (r : RxState) : (s.setRx r).rxState = r := rfl
@[simp] theorem State.setRx_txInflight (s : State) (r : RxState) : (s.setRx r).txInflight = s.txInflight := rfl
@[simp] theorem State.setRx_rx (s : State) (r : RxState) : (s.setRx r).rx = s.rx := rfl
@[simp] theorem State.setRx_tx (s : State) (r : RxState) : (s.setRx r).tx = s.tx := rfl
@[simp] theorem State.setRx_out (s : State) (r : RxState) : (s.setRx r).out = s.out := rfl
@[simp] theorem State.setRx_result (s : State) (r : RxState) : (s.setRx r).result = s.result := rfl
@[simp] theorem State.setRx_lease (s : State) (r : RxState) : (s.setRx r).lease = s.lease := rfl
@[simp] theorem State.setRx_sending (s : State) (r : RxState) : (s.setRx r).sending = s.sending := rfl
@[simp] theorem State.setRx_receiving (s : State) (r : RxState) : (s.setRx r).receiving = s.receiving := rfl
@[simp] theorem State.setRx_seen (s : State) (r : RxState) : (s.setRx r).seen = s.seen := rfl
@[simp] theorem State.setRx_rxDraw (s : State) (r : RxState) : (s.setRx r).rxDraw = s.rxDraw := rfl
@[simp] theorem State.setRx_nextDraw (s : State) (r : RxState) : (s.setRx r).nextDraw = s.nextDraw := rfl
@[simp] theorem State.setRx_pending (s : State) (r : RxState) : (s.setRx r).pending = s.pending := rfl

@[simp] theorem State.openGate_inited (s : State) : s.openGate.inited = s.inited := rfl
@[simp] theorem State.openGate_txReady (s : State) : s.openGate.txReady = true := rfl
@[simp] theorem State.openGate_rxState (s : State) : s.openGate.rxState = s.rxState := rfl
@[simp] theorem State.openGate_txInflight (s : State) : s.openGate.txInflight = false := rfl
@[simp] theorem State.openGate_rx (s : State) : s.openGate.rx = s.rx := rfl
@[simp] theorem State.openGate_tx (s : State) : s.openGate.tx = s.tx := rfl
@[simp] theorem State.openGate_out (s : State) : s.openGate.out = s.out := rfl
@[simp] theorem State.openGate_result (s : State) : s.openGate.result = s.result := rfl
@[simp] theorem State.openGate_lease (s : State) : s.openGate.lease = s.lease := rfl
@[simp] theorem State.openGate_sending (s : State) : s.openGate.sending = s.sending := rfl
@[simp] theorem State.openGate_receiving (s : State) : s.openGate.receiving = s.receiving := rfl
@[simp] theorem State.openGate_seen (s : State) : s.openGate.seen = s.seen := rfl
@[simp] theorem State.openGate_rxDraw (s : State) : s.openGate.rxDraw = s.rxDraw := rfl
@[simp] theorem State.openGate_nextDraw (s : State) : s.openGate.nextDraw = s.nextDraw := rfl
@[simp] theorem State.openGate_pending (s : State) : s.openGate.pending = s.pending := rfl

@[simp] theorem State.closeGate_inited (s : State) : s.closeGate.inited = s.inited := rfl
@[simp] theorem State.closeGate_txReady (s : State) : s.closeGate.txReady = false := rfl
@[simp] theorem State.closeGate_rxState (s : State) : s.closeGate.rxState = s.rxState := rfl
@[simp] theorem State.closeGate_txInflight (s : State) : s.closeGate.txInflight = true := rfl
@[simp] theorem State.closeGate_rx (s : State) : s.closeGate.rx = s.rx := rfl
@[simp] theorem State.closeGate_tx (s : State) : s.closeGate.tx = s.tx := rfl
@[simp] theorem State.closeGate_out (s : State) : s.closeGate.out = s.out := rfl
@[simp] theorem State.closeGate_result (s : State) : s.closeGate.result = s.result := rfl
@[simp] theorem State.closeGate_lease (s : State) : s.closeGate.lease = s.lease := rfl
@[simp] theorem State.closeGate_sending (s : State) : s.closeGate.sending = s.sending := rfl
@[simp] theorem State.closeGate_receiving (s : State) : s.closeGate.receiving = s.receiving := rfl
@[simp] theorem State.closeGate_seen (s : State) : s.closeGate.seen = s.seen := rfl
@[simp] theorem State.closeGate_rxDraw (s : State) : s.closeGate.rxDraw = s.rxDraw := rfl
@[simp] theorem State.closeGate_nextDraw (s : State) : s.closeGate.nextDraw = s.nextDraw := rfl
@[simp] theorem State.closeGate_pending (s : State) : s.closeGate.pending = s.pending := rfl

@[simp] theorem State.txWrite_inited (s : State) (off : Nat) (bs : List Byte) : (s.txWrite off bs).inited = s.inited := rfl
@[simp] theorem State.txWrite_txReady (s : State) (off : Nat) (bs : List Byte) : (s.txWrite off bs).txReady = s.txReady := rfl
@[simp] theorem State.txWrite_rxState (s : State) (off : Nat) (bs : List Byte) : (s.txWrite off bs).rxState = s.rxState := rfl
@[simp] theorem State.txWrite_txInflight (s : State) (off : Nat) (bs : List Byte) : (s.txWrite off bs).txInflight = s.txInflight := rfl
@[simp] theorem State.txWrite_rx (s : State) (off : Nat) (bs : List Byte) : (s.txWrite off bs).rx = s.rx := rfl
@[simp] theorem State.txWrite_tx (s : State) (off : Nat) (bs : List Byte) : (s.txWrite off bs).tx = s.tx.writeBytes off bs := rfl
@[simp] theorem State.txWrite_out (s : State) (off : Nat) (bs : List Byte) : (s.txWrite off bs).out = s.out := rfl
@[simp] theorem State.txWrite_result (s : State) (off : Nat) (bs : List Byte) : (s.txWrite off bs).result = s.result := rfl
@[simp] theorem State.txWrite_lease (s : State) (off : Nat) (bs : List Byte) : (s.txWrite off bs).lease = s.lease := rfl
@[simp] theorem State.txWrite_sending (s : State) (off : Nat) (bs : List Byte) : (s.txWrite off bs).sending = s.sending := rfl
@[simp] theorem State.txWrite_receiving (s : State) (off : Nat) (bs : List Byte) : (s.txWrite off bs).receiving = s.receiving := rfl
@[simp] theorem State.txWrite_seen (s : State) (off : Nat) (bs : List Byte) : (s.txWrite off bs).seen = s.seen := rfl
@[simp] theorem State.txWrite_rxDraw (s : State) (off : Nat) (bs : List Byte) : (s.txWrite off bs).rxDraw = s.rxDraw := rfl
@[simp] theorem State.txWrite_nextDraw (s : State) (off : Nat) (bs : List Byte) : (s.txWrite off bs).nextDraw = s.nextDraw := rfl
@[simp] theorem State.txWrite_pending (s : State) (off : Nat) (bs : List Byte) : (s.txWrite off bs).pending = s.pending := rfl

@[simp] theorem State.scrambleRx_inited (s : State) : s.scrambleRx.inited = s.inited := rfl
@[simp] theorem State.scrambleRx_txReady (s : State) : s.scrambleRx.txReady = s.txReady := rfl
@[simp] theorem State.scrambleRx_rxState (s : State) : s.scrambleRx.rxState = s.rxState := rfl
@[simp] theorem State.scrambleRx_txInflight (s : State) : s.scrambleRx.txInflight = s.txInflight := rfl
@[simp] theorem State.scrambleRx_rx (s : State) : s.scrambleRx.rx = [] := rfl
@[simp] theorem State.scrambleRx_tx (s : State) : s.scrambleRx.tx = s.tx := rfl
@[simp] theorem State.scrambleRx_out (s : State) : s.scrambleRx.out = s.out := rfl
@[simp] theorem State.scrambleRx_result (s : State) : s.scrambleRx.result = s.result := rfl
@[simp] theorem State.scrambleRx_lease (s : State) : s.scrambleRx.lease = s.lease := rfl
@[simp] theorem State.scrambleRx_sending (s : State) : s.scrambleRx.sending = s.sending := rfl
@[simp] theorem State.scrambleRx_receiving (s : State) : s.scrambleRx.receiving = s.receiving := rfl
@[simp] theorem State.scrambleRx_seen (s : State) : s.scrambleRx.seen = s.seen := rfl
@[simp] theorem State.scrambleRx_rxDraw (s : State) : s.scrambleRx.rxDraw = s.nextDraw := rfl
@[simp] theorem State.scrambleRx_nextDraw (s : State) : s.scrambleRx.nextDraw = s.nextDraw + 1 := rfl
@[simp] theorem State.scrambleRx_pending (s : State) : s.scrambleRx.pending = s.pending := rfl

@[simp] theorem State.handOver_inited (s : State) (n : Nat) : (s.handOver n).inited = s.inited := rfl
@[simp] theorem State.handOver_txReady (s : State) (n : Nat) : (s.handOver n).txReady = s.txReady := rfl
@[simp] theorem State.handOver_rxState (s : State) (n : Nat) : (s.handOver n).rxState = s.rxState := rfl
@[simp] theorem State.handOver_txInflight (s : State) (n : Nat) : (s.handOver n).txInflight = s.txInflight := rfl
@[simp] theorem State.handOver_rx (s : State) (n : Nat) : (s.handOver n).rx = s.rx.forgetFrom n := rfl
@[simp] theorem State.handOver_tx (s : State) (n : Nat) : (s.handOver n).tx = s.tx := rfl
@[simp] theorem State.handOver_out (s : State) (n : Nat) : (s.handOver n).out = s.out := rfl
@[simp] theorem State.handOver_result (s : State) (n : Nat) : (s.handOver n).result = s.result := rfl
@[simp] theorem State.handOver_lease (s : State) (n : Nat) : (s.handOver n).lease = s.lease := rfl
@[simp] theorem State.handOver_sending (s : State) (n : Nat) : (s.handOver n).sending = s.sending := rfl
@[simp] theorem State.handOver_receiving (s : State) (n : Nat) : (s.handOver n).receiving = s.receiving := rfl
@[simp] theorem State.handOver_seen (s : State) (n : Nat) : (s.handOver n).seen = s.seen := rfl
@[simp] theorem State.handOver_rxDraw (s : State) (n : Nat) : (s.handOver n).rxDraw = s.nextDraw := rfl
@[simp] theorem State.handOver_nextDraw (s : State) (n : Nat) : (s.handOver n).nextDraw = s.nextDraw + 1 := rfl
@[simp] theorem State.handOver_pending (s : State) (n : Nat) : (s.handOver n).pending = s.pending := rfl

@[simp] theorem State.deliver_inited (s : State) (bs : List Byte) : (s.deliver bs).inited = s.inited := rfl
@[simp] theorem State.deliver_txReady (s : State) (bs : List Byte) : (s.deliver bs).txReady = s.txReady := rfl
@[simp] theorem State.deliver_rxState (s : State) (bs : List Byte) : (s.deliver bs).rxState = s.rxState := rfl
@[simp] theorem State.deliver_txInflight (s : State) (bs : List Byte) : (s.deliver bs).txInflight = s.txInflight := rfl
@[simp] theorem State.deliver_rx (s : State) (bs : List Byte) : (s.deliver bs).rx = Memory.writeBytes [] 0 (bs.take Config.bufCap) := rfl
@[simp] theorem State.deliver_tx (s : State) (bs : List Byte) : (s.deliver bs).tx = s.tx := rfl
@[simp] theorem State.deliver_out (s : State) (bs : List Byte) : (s.deliver bs).out = s.out := rfl
@[simp] theorem State.deliver_result (s : State) (bs : List Byte) : (s.deliver bs).result = s.result := rfl
@[simp] theorem State.deliver_lease (s : State) (bs : List Byte) : (s.deliver bs).lease = s.lease := rfl
@[simp] theorem State.deliver_sending (s : State) (bs : List Byte) : (s.deliver bs).sending = s.sending := rfl
@[simp] theorem State.deliver_receiving (s : State) (bs : List Byte) : (s.deliver bs).receiving = s.receiving := rfl
@[simp] theorem State.deliver_seen (s : State) (bs : List Byte) : (s.deliver bs).seen = s.seen := rfl
@[simp] theorem State.deliver_rxDraw (s : State) (bs : List Byte) : (s.deliver bs).rxDraw = s.nextDraw := rfl
@[simp] theorem State.deliver_nextDraw (s : State) (bs : List Byte) : (s.deliver bs).nextDraw = s.nextDraw + 1 := rfl
@[simp] theorem State.deliver_pending (s : State) (bs : List Byte) : (s.deliver bs).pending = s.pending := rfl

@[simp] theorem State.strayRead_inited (s : State) : s.strayRead.inited = s.inited := rfl
@[simp] theorem State.strayRead_txReady (s : State) : s.strayRead.txReady = s.txReady := rfl
@[simp] theorem State.strayRead_rxState (s : State) : s.strayRead.rxState = s.rxState := rfl
@[simp] theorem State.strayRead_txInflight (s : State) : s.strayRead.txInflight = s.txInflight := rfl
@[simp] theorem State.strayRead_rx (s : State) : s.strayRead.rx = s.rx := rfl
@[simp] theorem State.strayRead_tx (s : State) : s.strayRead.tx = s.tx := rfl
@[simp] theorem State.strayRead_out (s : State) : s.strayRead.out = s.out := rfl
@[simp] theorem State.strayRead_result (s : State) : s.strayRead.result = s.result := rfl
@[simp] theorem State.strayRead_lease (s : State) : s.strayRead.lease = s.lease := rfl
@[simp] theorem State.strayRead_sending (s : State) : s.strayRead.sending = s.sending := rfl
@[simp] theorem State.strayRead_receiving (s : State) : s.strayRead.receiving = s.receiving := rfl
@[simp] theorem State.strayRead_seen (s : State) : s.strayRead.seen = some (Config.strayRead s.nextDraw) := rfl
@[simp] theorem State.strayRead_rxDraw (s : State) : s.strayRead.rxDraw = s.rxDraw := rfl
@[simp] theorem State.strayRead_nextDraw (s : State) : s.strayRead.nextDraw = s.nextDraw + 1 := rfl
@[simp] theorem State.strayRead_pending (s : State) : s.strayRead.pending = s.pending := rfl

@[simp] theorem State.invalidate_inited (s : State) : s.invalidate.inited = s.inited := rfl
@[simp] theorem State.invalidate_txReady (s : State) : s.invalidate.txReady = s.txReady := rfl
@[simp] theorem State.invalidate_rxState (s : State) : s.invalidate.rxState = s.rxState := rfl
@[simp] theorem State.invalidate_txInflight (s : State) : s.invalidate.txInflight = s.txInflight := rfl
@[simp] theorem State.invalidate_rx (s : State) : s.invalidate.rx = s.rx := rfl
@[simp] theorem State.invalidate_tx (s : State) : s.invalidate.tx = s.tx := rfl
@[simp] theorem State.invalidate_out (s : State) : s.invalidate.out = s.out := rfl
@[simp] theorem State.invalidate_result (s : State) : s.invalidate.result = s.result := rfl
@[simp] theorem State.invalidate_lease (s : State) : s.invalidate.lease = s.lease := rfl
@[simp] theorem State.invalidate_sending (s : State) : s.invalidate.sending = [] := rfl
@[simp] theorem State.invalidate_receiving (s : State) : s.invalidate.receiving = 0 := rfl
@[simp] theorem State.invalidate_seen (s : State) : s.invalidate.seen = s.seen := rfl
@[simp] theorem State.invalidate_rxDraw (s : State) : s.invalidate.rxDraw = s.rxDraw := rfl
@[simp] theorem State.invalidate_nextDraw (s : State) : s.invalidate.nextDraw = s.nextDraw := rfl
@[simp] theorem State.invalidate_pending (s : State) : s.invalidate.pending = s.pending := rfl

@[simp] theorem State.sendDone_inited (s : State) : s.sendDone.inited = s.inited := rfl
@[simp] theorem State.sendDone_txReady (s : State) : s.sendDone.txReady = s.txReady := rfl
@[simp] theorem State.sendDone_rxState (s : State) : s.sendDone.rxState = s.rxState := rfl
@[simp] theorem State.sendDone_txInflight (s : State) : s.sendDone.txInflight = s.txInflight := rfl
@[simp] theorem State.sendDone_rx (s : State) : s.sendDone.rx = s.rx := rfl
@[simp] theorem State.sendDone_tx (s : State) : s.sendDone.tx = s.tx := rfl
@[simp] theorem State.sendDone_out (s : State) : s.sendDone.out = s.out := rfl
@[simp] theorem State.sendDone_result (s : State) : s.sendDone.result = s.result := rfl
@[simp] theorem State.sendDone_lease (s : State) : s.sendDone.lease = s.lease := rfl
@[simp] theorem State.sendDone_sending (s : State) : s.sendDone.sending = s.sending.tail := rfl
@[simp] theorem State.sendDone_receiving (s : State) : s.sendDone.receiving = s.receiving := rfl
@[simp] theorem State.sendDone_seen (s : State) : s.sendDone.seen = s.seen := rfl
@[simp] theorem State.sendDone_rxDraw (s : State) : s.sendDone.rxDraw = s.rxDraw := rfl
@[simp] theorem State.sendDone_nextDraw (s : State) : s.sendDone.nextDraw = s.nextDraw := rfl
@[simp] theorem State.sendDone_pending (s : State) : s.sendDone.pending = s.pending := rfl

@[simp] theorem State.recvDone_inited (s : State) : s.recvDone.inited = s.inited := rfl
@[simp] theorem State.recvDone_txReady (s : State) : s.recvDone.txReady = s.txReady := rfl
@[simp] theorem State.recvDone_rxState (s : State) : s.recvDone.rxState = s.rxState := rfl
@[simp] theorem State.recvDone_txInflight (s : State) : s.recvDone.txInflight = s.txInflight := rfl
@[simp] theorem State.recvDone_rx (s : State) : s.recvDone.rx = s.rx := rfl
@[simp] theorem State.recvDone_tx (s : State) : s.recvDone.tx = s.tx := rfl
@[simp] theorem State.recvDone_out (s : State) : s.recvDone.out = s.out := rfl
@[simp] theorem State.recvDone_result (s : State) : s.recvDone.result = s.result := rfl
@[simp] theorem State.recvDone_lease (s : State) : s.recvDone.lease = s.lease := rfl
@[simp] theorem State.recvDone_sending (s : State) : s.recvDone.sending = s.sending := rfl
@[simp] theorem State.recvDone_receiving (s : State) : s.recvDone.receiving = s.receiving - 1 := rfl
@[simp] theorem State.recvDone_seen (s : State) : s.recvDone.seen = s.seen := rfl
@[simp] theorem State.recvDone_rxDraw (s : State) : s.recvDone.rxDraw = s.rxDraw := rfl
@[simp] theorem State.recvDone_nextDraw (s : State) : s.recvDone.nextDraw = s.nextDraw := rfl
@[simp] theorem State.recvDone_pending (s : State) : s.recvDone.pending = s.pending := rfl

end Sys2Proof.Machine
end

