-- ==== Sys2Proof/Laws/Ops.lean ====
section
/-!
SUPPORT. What each shared operation can do, said once.
-/

namespace Sys2Proof.Machine

/-! ## Bytes of the buffers -/

/-- A byte of `TX` after a write: the byte written, or the byte before. -/
theorem State.txByte_txWrite (s : State) (off : Nat) (bs : List Byte) (a : Nat) :
    (s.txWrite off bs).txByte a =
      if off ≤ a then (bs[a - off]?).getD (s.txByte a) else s.txByte a := by
  simp only [State.txByte, State.txWrite_tx, Memory.read_writeBytes]
  by_cases h : off ≤ a
  · by_cases h2 : a < off + bs.length
    · rw [if_pos ⟨h, h2⟩, if_pos h]
      rw [List.getElem?_eq_getElem (by omega)]
      rfl
    · rw [if_neg (by omega), if_pos h, List.getElem?_eq_none (by omega)]
      rfl
  · rw [if_neg (by omega), if_neg h]

/-- A write of no bytes, or of bytes elsewhere, leaves a byte of `TX` alone. -/
theorem State.txByte_txWrite_of_outside (s : State) {off : Nat} {bs : List Byte} {a : Nat}
    (h : a < off ∨ off + bs.length ≤ a) : (s.txWrite off bs).txByte a = s.txByte a := by
  rw [State.txByte_txWrite]
  split
  · rw [List.getElem?_eq_none (by omega)]
    rfl
  · rfl

/-- A byte of `TX` inside a write is the byte written. -/
theorem State.txByte_txWrite_of_inside (s : State) {off : Nat} {bs : List Byte} {j : Nat}
    (h : j < bs.length) : (s.txWrite off bs).txByte (off + j) = bs[j] := by
  rw [State.txByte_txWrite, if_pos (by omega), Nat.add_sub_cancel_left,
    List.getElem?_eq_getElem h]
  rfl

/-- Two neighbouring writes are one. -/
theorem State.txWrite_append (s : State) (off : Nat) (us vs : List Byte) :
    s.txWrite off (us ++ vs) = (s.txWrite off us).txWrite (off + us.length) vs := by
  simp only [State.txWrite, Memory.writeBytes_append]

theorem State.txWrite_nil (s : State) (off : Nat) : s.txWrite off [] = s := rfl

/-- A byte of `RX` once USB has handed over a transfer of `n` bytes. -/
theorem State.rxByte_handOver (s : State) (n a : Nat) :
    (s.handOver n).rxByte a =
      if a < n then (s.rx.read a).getD (Config.rxUnspecified s.nextDraw a)
      else Config.rxUnspecified s.nextDraw a := by
  simp only [State.rxByte, State.handOver_rx, State.handOver_rxDraw, Memory.read_forgetFrom]
  split <;> rfl

/-- A byte of `RX` once USB has placed a transfer's bytes there. -/
theorem State.rxByte_deliver (s : State) {bs : List Byte} (h : bs.length ≤ Config.bufCap) (a : Nat) :
    (s.deliver bs).rxByte a = (bs[a]?).getD (Config.rxUnspecified s.nextDraw a) := by
  simp only [State.rxByte, State.deliver_rx, State.deliver_rxDraw, Memory.read_writeBytes,
    Memory.read_nil, List.take_of_length_le h, Nat.zero_le, true_and, Nat.zero_add, Nat.sub_zero]
  split
  · rfl
  · rw [List.getElem?_eq_none (by omega)]

/-! ## Preconditions -/

theorem requireInited_eq_next {s t : State} {body : State → Host.Outcome State Fault Refusal} :
    requireInited s body = .next t ↔ s.inited = true ∧ body s = .next t := by
  unfold requireInited
  split <;> simp_all

theorem requireInited_of_inited {s : State} (h : s.inited = true)
    (body : State → Host.Outcome State Fault Refusal) : requireInited s body = body s := by
  simp [requireInited, h]

theorem requireInited_of_not {s : State} (h : s.inited = false)
    (body : State → Host.Outcome State Fault Refusal) : requireInited s body = .refused .notInited := by
  simp [requireInited, h]

/-- An operation on a completed transfer answers a next state exactly where its three `require`s hold. -/
theorem requireTransfer_eq_next {n : Nat} {s t : State}
    {body : State → Host.Outcome State Fault Refusal} :
    requireTransfer n s body = .next t ↔
      s.inited = true ∧ s.rxState = .armed ∧ n ≤ Config.bufCap ∧ body s = .next t := by
  unfold requireTransfer
  rw [requireInited_eq_next]
  split
  · split <;> simp_all
  · simp_all

theorem requireTransfer_of_armed {n : Nat} {s : State} (hi : s.inited = true)
    (ha : s.rxState = .armed) (hn : n ≤ Config.bufCap)
    (body : State → Host.Outcome State Fault Refusal) : requireTransfer n s body = body s := by
  simp [requireTransfer, requireInited, hi, ha, hn]

/-! ## The chain walker -/

theorem chainFlattenFrom_eq (s : State) (total k : Nat) (chain : List Segment) :
    chainFlattenFrom s total k chain =
      (s.txWrite (Config.hdrSize + total) ((chain.take (k + 1)).flatMap Segment.payload),
        total + ((chain.take (k + 1)).flatMap Segment.payload).length) := by
  induction chain generalizing s total k with
  | nil => simp [chainFlattenFrom, State.txWrite_nil]
  | cons seg rest ih =>
    cases k with
    | zero => simp [chainFlattenFrom, segmentLen]
    | succ k =>
      simp only [chainFlattenFrom, ih, List.take_succ_cons, List.flatMap_cons, List.length_append,
        State.txWrite_append, segmentLen, Nat.add_assoc]

/-- CHAIN_FLATTEN writes the payloads of segments 0 to `k`, in order, right after the header region. -/
theorem chainFlatten_eq (s : State) (chain : List Segment) (k : Nat) :
    chainFlatten s chain k =
      (s.txWrite Config.hdrSize ((chain.take (k + 1)).flatMap Segment.payload),
        ((chain.take (k + 1)).flatMap Segment.payload).length) := by
  simp [chainFlatten, chainFlattenFrom_eq]

theorem chainTotalFrom_eq_total {i total k sum : Nat} {chain : List Segment}
    (h : chainTotalFrom i total chain = .total k sum) :
    i ≤ k ∧ sum = total + ((chain.take (k - i + 1)).flatMap Segment.payload).length := by
  induction chain generalizing i total with
  | nil => simp [chainTotalFrom] at h
  | cons seg rest ih =>
    simp only [chainTotalFrom] at h
    split at h
    · obtain ⟨rfl, rfl⟩ : i = k ∧ total + segmentLen seg = sum := by simpa using h
      simp [segmentLen]
    · obtain ⟨h1, h2⟩ := ih h
      refine ⟨by omega, ?_⟩
      rw [show k - i + 1 = (k - (i + 1) + 1) + 1 by omega, List.take_succ_cons, List.flatMap_cons,
        List.length_append, h2, segmentLen]
      omega

/-- The total CHAIN_TOTAL finds is the number of bytes CHAIN_FLATTEN copies. -/
theorem chainTotal_eq_total {k total : Nat} {chain : List Segment}
    (h : chainTotal chain = .total k total) :
    ((chain.take (k + 1)).flatMap Segment.payload).length = total := by
  have := (chainTotalFrom_eq_total h).2
  simp only [Nat.sub_zero, Nat.zero_add] at this
  exact this.symm

end Sys2Proof.Machine
end

