-- ==== Sys2Proof/Laws/Exec.lean ====
section
/-!
SUPPORT. What the shared parts of the meanings, an agent's access and a step can do, said once.
-/

namespace Sys2Proof.Machine

/-! ## The receive path -/

/-- Where the three `require`s hold, a completed transfer is short or goes to its branch. -/
theorem rxTransfer_of_armed {n : Nat} {s : State} (hi : s.inited = true) (ha : s.rxState = .armed)
    (hn : n ≤ Config.bufCap) (body : State → State) :
    rxTransfer n body s =
      .next (if n < Config.hdrSize then rxDrop .short s.enter else body s.enter) := by
  rw [rxTransfer, requireTransfer_of_armed hi ha hn]
  split <;> rfl

/-- A completed transfer gives a next state exactly where the three `require`s hold. -/
theorem rxTransfer_eq_next {n : Nat} {body : State → State} {s t : State} :
    rxTransfer n body s = .next t ↔
      s.inited = true ∧ s.rxState = .armed ∧ n ≤ Config.bufCap ∧
        t = if n < Config.hdrSize then rxDrop .short s.enter else body s.enter := by
  rw [rxTransfer, requireTransfer_eq_next]
  refine and_congr_right fun _ => and_congr_right fun _ => and_congr_right fun _ => ?_
  split <;> simp [eq_comm]

/-- Outside RX_ARMED a completed transfer is refused, whatever its branch. -/
theorem rxTransfer_of_not_armed {n : Nat} {s : State} (hi : s.inited = true)
    (ha : s.rxState ≠ .armed) (body : State → State) : rxTransfer n body s = .refused .rxNotArmed := by
  rw [rxTransfer, requireTransfer, requireInited_of_inited hi, if_neg ha]

/-- More bytes than the capacity are refused, whatever the branch. -/
theorem rxTransfer_of_overCapacity {n : Nat} {s : State} (hi : s.inited = true)
    (ha : s.rxState = .armed) (hn : Config.bufCap < n) (body : State → State) :
    rxTransfer n body s = .refused (.overCapacity n) := by
  rw [rxTransfer, requireTransfer, requireInited_of_inited hi, if_pos ha, if_neg (by omega)]

/-- Branches that agree on the state as the operation enters it answer alike. -/
theorem rxTransfer_congr {n : Nat} {s : State} {b1 b2 : State → State}
    (h : Config.hdrSize ≤ n → b1 s.enter = b2 s.enter) : rxTransfer n b1 s = rxTransfer n b2 s := by
  unfold rxTransfer requireTransfer requireInited
  split
  · dsimp only
    split
    · split
      · split
        · rfl
        · rw [h (by omega)]
      · rfl
    · rfl
  · rfl

/-- The data path drops the packet or forwards it, and forwards only with room for a trailer. -/
theorem rxData_cases (length n : Nat) (s : State) :
    (∃ why, rxData length n s = rxDrop why s) ∨
      (Config.hdrSize + Config.trailerSize ≤ n ∧ Config.hdrSize + length ≤ n ∧
        rxData length n s = rxForward n s) := by
  unfold rxData
  split
  · exact .inl ⟨_, rfl⟩
  · split
    · exact .inl ⟨_, rfl⟩
    · exact .inr ⟨by omega, by omega, rfl⟩

/-- A drop: one receive request, one status, nothing else. -/
theorem rxDrop_eq (why : RxStatus) (s : State) :
    rxDrop why s =
      { s with
        out := s.out ++ [recvRequest]
        lease := none
        receiving := s.receiving + 1
        result := some (.rx why) } := rfl

/-- A forwarded frame: RX_HELD, the frame lent, one status, nothing else. -/
theorem rxForward_eq (n : Nat) (s : State) :
    rxForward n s =
      { s with
        rxState := .held
        out := s.out ++ [.frameOut Config.hdrSize (n - Config.hdrSize - Config.trailerSize)]
        lease := some (Config.hdrSize, n - Config.hdrSize - Config.trailerSize)
        result := some (.rx .forwarded) } := rfl

/-! ## The transmit path -/

/-- A sent packet: payload, sentinel and header in `TX`, the gate closed, one SEND_REQ, one status,
nothing else. -/
theorem xmitSend_eq (chain : List Segment) (k total : Nat) (s : State) :
    xmitSend chain k total s =
      { s with
        tx := (((s.tx.writeBytes Config.hdrSize (chainPayload chain k)).writeBytes
          (Config.hdrSize + total) Config.sentinel).writeBytes 0
            (hdrBytes (hdrEncode (total + Config.trailerSize) false false)))
        txReady := false
        txInflight := true
        out := s.out ++ [.sendReq .epIn .TX (Config.hdrSize + (total + Config.trailerSize))]
        sending := s.sending ++ [Config.hdrSize + (total + Config.trailerSize)]
        result := some (.xmit .sent) } := by
  simp only [xmitSend, chainFlatten_eq]
  rfl

theorem length_packetBytes (payload : List Byte) :
    (packetBytes payload).length = Config.hdrSize + payload.length + Config.trailerSize := by
  simp [packetBytes, hdrBytes, Config.sentinel, Config.hdrSize, Config.trailerSize]
  omega

/-- A byte of `TX` after a packet is sent: the packet's byte, or beyond it the byte before. -/
theorem xmitSend_txByte {chain : List Segment} {k total : Nat} (s : State)
    (h : chainTotal chain = .total k total) (a : Nat) :
    (xmitSend chain k total s).txByte a =
      ((packetBytes (chainPayload chain k))[a]?).getD (s.txByte a) := by
  have hl : (chainPayload chain k).length = total := chainTotal_eq_total h
  have e : (xmitSend chain k total s).txByte a =
      (((s.txWrite Config.hdrSize (chainPayload chain k)).txWrite (Config.hdrSize + total)
        Config.sentinel).txWrite 0
          (hdrBytes (hdrEncode (total + Config.trailerSize) false false))).txByte a := by
    rw [xmitSend_eq]
    rfl
  rw [e]
  simp only [State.txByte_txWrite, packetBytes, hl, Nat.zero_le, if_true, Nat.sub_zero]
  have h2 : ∀ x, (hdrBytes x).length = 2 := fun _ => rfl
  have hs : Config.hdrSize = 2 := rfl
  by_cases c1 : a < 2
  · rw [List.append_assoc, List.getElem?_append_left (by rw [h2]; exact c1)]
    rw [List.getElem?_eq_getElem (by rw [h2]; exact c1)]
    rfl
  · rw [List.getElem?_eq_none (by rw [h2]; omega), Option.getD_none]
    by_cases c2 : a < 2 + total
    · rw [if_neg (by omega), if_pos (by omega), List.append_assoc,
        List.getElem?_append_right (by rw [h2]; omega), h2,
        List.getElem?_append_left (by rw [hl]; omega), hs]
    · rw [if_pos (by omega), List.getElem?_append_right (by rw [List.length_append, h2, hl]; omega)]
      rw [List.length_append, h2, hl, if_pos (by omega), hs,
        List.getElem?_eq_none (l := chainPayload chain k) (by rw [hl]; omega)]
      rfl

/-- XMIT_PACKET after INIT: which of its four outcomes it has. -/
theorem execXmitPacket_of_inited {s : State} (hi : s.inited = true) (chain : List Segment) :
    execXmitPacket chain s = .next (
      if s.txReady then
        match chainTotal chain with
        | .noMarker => s.enter.finish (.xmit .malformed)
        | .total k total =>
          if Config.mss < total then s.enter.finish (.xmit .oversize)
          else xmitSend chain k total s.enter
      else s.enter.finish (.xmit .busy)) := by
  rw [execXmitPacket, requireInited_of_inited hi]
  by_cases hr : s.txReady = true
  · rw [if_pos hr, if_pos hr]
    cases chainTotal chain with
    | noMarker => rfl
    | total k total =>
      dsimp only
      split <;> rfl
  · rw [if_neg hr, if_neg hr]

/-! ## What an operation can do -/

/-- What a completed transfer's branch can do to a state: drop or forward. -/
theorem rxTransfer_rxData_eq_next {length n : Nat} {s t : State}
    (h : rxTransfer n (rxData length n) s = .next t) :
    s.inited = true ∧ s.rxState = .armed ∧
      ((∃ why, t = { s with
          out := [recvRequest]
          lease := none
          receiving := s.receiving + 1
          result := some (.rx why) }) ∨
        (6 ≤ n ∧ n ≤ 1520 ∧ t = { s with
          rxState := .held
          out := [.frameOut 2 (n - 6)]
          lease := some (2, n - 6)
          result := some (.rx .forwarded) })) := by
  obtain ⟨hi, ha, hn, ht⟩ := rxTransfer_eq_next.1 h
  refine ⟨hi, ha, ?_⟩
  split at ht
  · exact .inl ⟨_, ht⟩
  · rcases rxData_cases length n s.enter with ⟨why, hw⟩ | ⟨h6, -, hw⟩
    · exact .inl ⟨why, by rw [ht, hw]; rfl⟩
    · refine .inr ⟨h6, hn, ?_⟩
      rw [ht, hw, rxForward_eq]
      have : n - Config.hdrSize - Config.trailerSize = n - 6 := by
        unfold Config.hdrSize Config.trailerSize
        omega
      rw [this]
      rfl

theorem rxTransfer_rxControl_eq_next {n : Nat} {s t : State}
    (h : rxTransfer n rxControl s = .next t) :
    s.inited = true ∧ s.rxState = .armed ∧
      ∃ why, t = { s with
        out := [recvRequest]
        lease := none
        receiving := s.receiving + 1
        result := some (.rx why) } := by
  obtain ⟨hi, ha, -, ht⟩ := rxTransfer_eq_next.1 h
  refine ⟨hi, ha, ?_⟩
  split at ht
  · exact ⟨_, ht⟩
  · exact ⟨_, ht⟩

/-- RX_COMPLETE goes the data path or the control path. -/
theorem execRxComplete_cases (n : Nat) (s : State) :
    (∃ length, execRxComplete n s = rxTransfer n (rxData length n) s) ∨
      execRxComplete n s = rxTransfer n rxControl s := by
  have hh : s.enter.rxHeader = s.rxHeader := rfl
  by_cases hb : (hdrDecode s.rxHeader).bmType = true
  · refine .inr (rxTransfer_congr fun _ => ?_)
    dsimp only
    rw [hh, if_pos hb]
  · refine .inl ⟨(hdrDecode s.rxHeader).length.toNat, rxTransfer_congr fun _ => ?_⟩
    dsimp only
    rw [hh, if_neg hb]

/-- Every operation that goes through does one of these things. -/
theorem exec_eq_next {i : Instr} {s t : State} (h : exec i s = .next t) :
    (i = .init ∧ t = { s with
      inited := true
      out := [.regCallback .epOut .rxComplete, .regCallback .epIn .sendComplete]
      result := none }) ∨
    (s.inited = true ∧ (
      (i = .config ∧ t = { s with
        rxState := .armed
        txReady := true
        txInflight := false
        out := [recvRequest]
        result := none
        lease := none
        sending := []
        receiving := 1 }) ∨
      (i = .rxArm ∧ s.rxState = .held ∧ t = { s with
        rxState := .armed
        out := [recvRequest]
        lease := none
        receiving := s.receiving + 1
        result := some (.arm .done) }) ∨
      (i = .rxArm ∧ s.rxState ≠ .held ∧
        t = { s with out := [], result := some (.arm .ignored) }) ∨
      (needsTransfer i = true ∧ s.rxState = .armed ∧
        ∃ why, t = { s with
          out := [recvRequest]
          lease := none
          receiving := s.receiving + 1
          result := some (.rx why) }) ∨
      (needsTransfer i = true ∧ (∀ low15 n, i ≠ .eemControl low15 n) ∧ s.rxState = .armed ∧
        ∃ n, 6 ≤ n ∧ n ≤ 1520 ∧ t = { s with
          rxState := .held
          out := [.frameOut 2 (n - 6)]
          lease := some (2, n - 6)
          result := some (.rx .forwarded) }) ∨
      (i = .sendComplete ∧ t = { s with
        txReady := true
        txInflight := false
        out := []
        result := none }) ∨
      (i = .txReady ∧ t = { s with out := [], result := some (.ready s.txReady) }) ∨
      (∃ chain, i = .xmitPacket chain ∧
        ((s.txReady = false ∧ t = { s with out := [], result := some (.xmit .busy) }) ∨
          (s.txReady = true ∧ chainTotal chain = .noMarker ∧
            t = { s with out := [], result := some (.xmit .malformed) }) ∨
          (∃ k total, s.txReady = true ∧ chainTotal chain = .total k total ∧ 1514 < total ∧
            t = { s with out := [], result := some (.xmit .oversize) }) ∨
          (∃ k total, s.txReady = true ∧ chainTotal chain = .total k total ∧ total ≤ 1514 ∧
            t = xmitSend chain k total s.enter))) ∨
      (∃ length, i = .eemTxHeader length ∧
        ((s.txReady = false ∧ t = { s with out := [], result := some (.xmit .busy) }) ∨
          (s.txReady = true ∧ t = fillHeader length.toNat s.enter))))) := by
  cases i with
  | init => exact .inl ⟨rfl, (Host.Outcome.next.inj h).symm⟩
  | config =>
    simp only [exec, execConfig, requireInited_eq_next] at h
    exact .inr ⟨h.1, .inl ⟨rfl, (Host.Outcome.next.inj h.2).symm⟩⟩
  | rxArm =>
    simp only [exec, execRxArm, requireInited_eq_next] at h
    obtain ⟨hi, h⟩ := h
    split at h
    · exact .inr ⟨hi, .inr (.inl ⟨rfl, ‹_›, (Host.Outcome.next.inj h).symm⟩)⟩
    · exact .inr ⟨hi, .inr (.inr (.inl ⟨rfl, ‹_›, (Host.Outcome.next.inj h).symm⟩))⟩
  | rxComplete n =>
    change execRxComplete n s = .next t at h
    rcases execRxComplete_cases n s with ⟨length, e⟩ | e
    · obtain ⟨hi, ha, hd | hf⟩ := rxTransfer_rxData_eq_next (e ▸ h)
      · exact .inr ⟨hi, .inr (.inr (.inr (.inl ⟨rfl, ha, hd⟩)))⟩
      · exact .inr ⟨hi, .inr (.inr (.inr (.inr (.inl ⟨rfl, by simp, ha, n, hf⟩))))⟩
    · obtain ⟨hi, ha, hd⟩ := rxTransfer_rxControl_eq_next (e ▸ h)
      exact .inr ⟨hi, .inr (.inr (.inr (.inl ⟨rfl, ha, hd⟩)))⟩
  | eemDataSentinel length n =>
    obtain ⟨hi, ha, hd | hf⟩ := rxTransfer_rxData_eq_next h
    · exact .inr ⟨hi, .inr (.inr (.inr (.inl ⟨rfl, ha, hd⟩)))⟩
    · exact .inr ⟨hi, .inr (.inr (.inr (.inr (.inl ⟨rfl, by simp, ha, n, hf⟩))))⟩
  | eemDataCrc length n =>
    obtain ⟨hi, ha, hd | hf⟩ := rxTransfer_rxData_eq_next h
    · exact .inr ⟨hi, .inr (.inr (.inr (.inl ⟨rfl, ha, hd⟩)))⟩
    · exact .inr ⟨hi, .inr (.inr (.inr (.inr (.inl ⟨rfl, by simp, ha, n, hf⟩))))⟩
  | eemControl low15 n =>
    obtain ⟨hi, ha, hd⟩ := rxTransfer_rxControl_eq_next h
    exact .inr ⟨hi, .inr (.inr (.inr (.inl ⟨rfl, ha, hd⟩)))⟩
  | sendComplete =>
    simp only [exec, execSendComplete, requireInited_eq_next] at h
    exact .inr ⟨h.1, .inr (.inr (.inr (.inr (.inr
      (.inl ⟨rfl, (Host.Outcome.next.inj h.2).symm⟩)))))⟩
  | txReady =>
    simp only [exec, execTxReady, requireInited_eq_next] at h
    exact .inr ⟨h.1, .inr (.inr (.inr (.inr (.inr (.inr
      (.inl ⟨rfl, (Host.Outcome.next.inj h.2).symm⟩))))))⟩
  | xmitPacket chain =>
    have hi : s.inited = true := by
      simp only [exec, execXmitPacket, requireInited_eq_next] at h
      exact h.1
    have h := (execXmitPacket_of_inited hi chain).symm.trans h
    refine .inr ⟨hi, .inr (.inr (.inr (.inr (.inr (.inr (.inr (.inl ⟨chain, rfl, ?_⟩)))))))⟩
    have h := Host.Outcome.next.inj h
    by_cases hr : s.txReady = true
    · rw [if_pos hr] at h
      cases hc : chainTotal chain with
      | noMarker =>
        rw [hc] at h
        exact .inr (.inl ⟨hr, rfl, h.symm⟩)
      | total k total =>
        rw [hc] at h
        dsimp only at h
        by_cases hl : Config.mss < total
        · rw [if_pos hl] at h
          exact .inr (.inr (.inl ⟨k, total, hr, rfl, hl, h.symm⟩))
        · rw [if_neg hl] at h
          exact .inr (.inr (.inr ⟨k, total, hr, rfl, Nat.le_of_not_lt hl, h.symm⟩))
    · rw [if_neg hr] at h
      exact .inl ⟨by simpa using hr, h.symm⟩
  | eemTxHeader length =>
    simp only [exec, execEemTxHeader, requireInited_eq_next] at h
    obtain ⟨hi, h⟩ := h
    refine .inr ⟨hi, .inr (.inr (.inr (.inr (.inr (.inr (.inr (.inr ⟨length, rfl, ?_⟩)))))))⟩
    split at h
    · exact .inr ⟨‹_›, (Host.Outcome.next.inj h).symm⟩
    · rename_i hr
      exact .inl ⟨by simpa using hr, (Host.Outcome.next.inj h).symm⟩

/-! ## Agents and steps -/

/-- An agent's access that goes through does one of four things. -/
theorem agentAccess_eq_next {a : Access} {s t : State} (h : agentAccess a s = .next t) :
    (∃ off b, a = .usbWrite off b ∧ off < Config.bufCap ∧ s.rxState = .armed ∧
      t = { s with rx := s.rx.write off b }) ∨
    (∃ off b, a = .usbWrite off b ∧ off < Config.bufCap ∧ s.rxState ≠ .armed ∧ t = s.scrambleRx) ∨
    (∃ b, t = { s with seen := some b }) ∨
    t = s.strayRead := by
  cases a with
  | usbWrite off b =>
    simp only [agentAccess] at h
    split at h
    · split at h
      · exact .inl ⟨off, b, rfl, ‹_›, ‹_›, by simpa using h.symm⟩
      · exact .inr (.inl ⟨off, b, rfl, ‹_›, ‹_›, by simpa using h.symm⟩)
    · cases h
  | usbRead off =>
    simp only [agentAccess] at h
    split at h
    · exact .inr (.inr (.inl ⟨_, by simpa using h.symm⟩))
    · split at h
      · exact .inr (.inr (.inr (by simpa using h.symm)))
      · cases h
  | netRead off =>
    simp only [agentAccess] at h
    split at h
    · exact .inr (.inr (.inl ⟨_, by simpa using h.symm⟩))
    · split at h
      · exact .inr (.inr (.inr (by simpa using h.symm)))
      · cases h

/-- A step that goes through waits, runs the move's operation, or does the move's access. -/
theorem step_eq_next {s t : State} (h : step s = .next t) :
    (s.pending = [] ∧ t = s) ∨
    (∃ e rest i, s.pending = e :: rest ∧ fetch e = .instr i ∧
      exec i (arrive e i { s with pending := rest }) = .next t) ∨
    (∃ e rest a, s.pending = e :: rest ∧ fetch e = .access a ∧
      agentAccess a { s with pending := rest } = .next t) := by
  unfold step at h
  split at h
  · exact .inl ⟨‹_›, by simpa [idle] using h.symm⟩
  · split at h
    · exact .inr (.inl ⟨_, _, _, ‹_›, ‹_›, h⟩)
    · exact .inr (.inr ⟨_, _, _, ‹_›, ‹_›, h⟩)
    · cases h

/-- The operation interface's port decodes to operations only. -/
theorem port_of_decodeCall {bs : List Byte} {i : Instr} (h : decode .call bs = .ok i) :
    i.port = .call := by
  have hw : ∀ j rest, wholeRecord j rest = .ok i → j = i := by
    intro j rest hr
    cases rest with
    | nil => exact Except.ok.inj hr
    | cons _ _ => cases hr
  cases bs with
  | nil => cases h
  | cons b bs =>
    simp only [decode, decodeCall] at h
    split at h <;> try (rw [← hw _ _ h]; rfl)
    · split at h
      · cases h
      · rw [← hw _ _ h]; rfl
    · split at h
      · cases h
      · rw [← hw _ _ h]; rfl
    · cases h

/-- A completed transfer decodes to a receive completion or a received packet class. -/
theorem needsTransfer_of_decodeTransfer {bs : List Byte} {i : Instr}
    (h : decodeTransfer bs = .ok i) : needsTransfer i = true := by
  unfold decodeTransfer at h
  split at h
  · cases h; rfl
  · simp only [decode] at h
    unfold decodeReceived at h
    split at h
    · split at h
      · cases h
      · rw [← Except.ok.inj h, classOf]
        split
        · rfl
        · split <;> rfl
    · cases h

/-- A move that runs an operation is a call, a transfer or an unmatched completion. -/
theorem fetch_eq_instr {e : Event} {i : Instr} (h : fetch e = .instr i) :
    (∃ bs, e = .call bs ∧ decode .call bs = .ok i) ∨
    (∃ bs, e = .transfer bs ∧ needsTransfer i = true) ∨
    (∃ c, e = .unmatched c ∧ i = c.instr) := by
  cases e with
  | call bs =>
    simp only [fetch] at h
    split at h
    · exact .inl ⟨bs, rfl, by rwa [← Fetched.instr.inj h]⟩
    · cases h
  | transfer bs =>
    simp only [fetch] at h
    split at h
    · exact .inr (.inl ⟨bs, rfl, by
        rw [← Fetched.instr.inj h]; exact needsTransfer_of_decodeTransfer ‹_›⟩)
    · cases h
  | unmatched c => exact .inr (.inr ⟨c, rfl, (Fetched.instr.inj h).symm⟩)
  | access a => cases h

/-- What the invoking agent does before an operation starts: nothing; or, with a matched
SEND_COMPLETE, USB ends the oldest send; or, with a receive completion, USB hands `RX` over, and ends a
receive request unless the completion is unmatched. -/
theorem arrive_cases {e : Event} {i : Instr} (hf : fetch e = .instr i) (s : State) :
    (needsTransfer i = false ∧ (i = .sendComplete → e = .unmatched .send) ∧ arrive e i s = s) ∨
    (i = .sendComplete ∧ (∃ bs, e = .call bs) ∧ arrive e i s = s.sendDone) ∨
    (needsTransfer i = true ∧ ∃ m r, (s.rx.wf → m.wf) ∧
      ((r = s.receiving - 1 ∧ ∀ c, e ≠ .unmatched c) ∨ (r = s.receiving ∧ ∃ c, e = .unmatched c)) ∧
      arrive e i s = { s with
        rx := m
        rxDraw := s.nextDraw
        nextDraw := s.nextDraw + 1
        receiving := r }) := by
  rcases fetch_eq_instr hf with ⟨bs, rfl, hd⟩ | ⟨bs, rfl, hn⟩ | ⟨c, rfl, rfl⟩
  · have hp := port_of_decodeCall hd
    cases i with
    | rxComplete n =>
      exact .inr (.inr ⟨rfl, _, _, fun h => Memory.wf_forgetFrom h n, .inl ⟨rfl, by simp⟩, rfl⟩)
    | sendComplete => exact .inr (.inl ⟨rfl, ⟨bs, rfl⟩, rfl⟩)
    | eemDataSentinel _ _ => cases hp
    | eemDataCrc _ _ => cases hp
    | eemControl _ _ => cases hp
    | eemTxHeader _ => cases hp
    | _ => exact .inl ⟨rfl, by simp, rfl⟩
  · refine .inr (.inr ⟨hn, _, _, fun _ => Memory.wf_writeBytes (a := 0)
      (vs := bs.take Config.bufCap) Memory.wf_nil ?_, .inl ⟨rfl, by simp⟩, rfl⟩)
    simp only [List.length_take]
    omega
  · cases c with
    | recv n =>
      exact .inr (.inr ⟨rfl, _, _, fun h => Memory.wf_forgetFrom h n, .inr ⟨rfl, _, rfl⟩, rfl⟩)
    | send => exact .inl ⟨rfl, fun _ => rfl, rfl⟩

/-- No move touches a control bit, `TX`, the lease or the waiting moves before its operation starts. -/
theorem arrive_unchanged {e : Event} {i : Instr} (hf : fetch e = .instr i) (s : State) :
    (arrive e i s).inited = s.inited ∧ (arrive e i s).txReady = s.txReady ∧
    (arrive e i s).rxState = s.rxState ∧ (arrive e i s).txInflight = s.txInflight ∧
    (arrive e i s).tx = s.tx ∧ (arrive e i s).lease = s.lease ∧
    (arrive e i s).pending = s.pending := by
  rcases arrive_cases hf s with ⟨-, -, h⟩ | ⟨-, -, h⟩ | ⟨-, m, r, -, -, h⟩ <;> rw [h] <;>
    exact ⟨rfl, rfl, rfl, rfl, rfl, rfl, rfl⟩

/-- A move keeps its duty when it is no unmatched completion and what it turns out to be keeps its own. -/
theorem duty_iff (e : Event) (s : State) :
    duty e s ↔ (∀ c, e ≠ .unmatched c) ∧ fetchedDuty (fetch e) s := by
  cases e with
  | unmatched c => exact ⟨False.elim, fun h => h.1 c rfl⟩
  | call bs => exact ⟨fun h => ⟨by simp, h⟩, fun h => h.2⟩
  | transfer bs => exact ⟨fun h => ⟨by simp, h⟩, fun h => h.2⟩
  | access a => exact ⟨fun h => ⟨by simp, h⟩, fun h => h.2⟩

/-- A packet in `TX` depends on `TX` alone. -/
theorem PacketInTx.of_tx {s t : State} {len : Nat} (h : t.tx = s.tx) (p : PacketInTx s len) :
    PacketInTx t len := by
  have hb : ∀ a, t.txByte a = s.txByte a := fun a => by unfold State.txByte; rw [h]
  refine ⟨p.shortest, p.longest, ?_, fun j hj => ?_⟩
  · rw [hb, hb]; exact p.header
  · rw [hb]; exact p.sentinel j hj

end Sys2Proof.Machine
end

