-- ==== Sys2Proof/Laws/PerInstr.lean ====
section
/-!
SUPPORT. Per instruction: the bytes the encoder gives begin with a word that the instruction's row of the
opcode table matches (spec/30_encoding.md R70, R76).
-/

namespace Sys2Proof.Laws.EncodeRow

/-- The instruction's first word, under its row's mask, is the row's match. -/
def Statement (i : Instr) : Prop := i.WellFormed → rowWord i &&& rowMask i = rowMatch i

theorem init : Statement .init := fun _ => rfl

theorem config : Statement .config := fun _ => rfl

theorem rxArm : Statement .rxArm := fun _ => rfl

theorem rxComplete (n : Nat) : Statement (.rxComplete n) := by
  intro _
  simp only [rowWord, callWord, encode, Instr.port, rowMask, rowMatch]
  rfl

theorem sendComplete : Statement .sendComplete := fun _ => rfl

theorem txReady : Statement .txReady := fun _ => rfl

theorem xmitPacket (chain : List Segment) : Statement (.xmitPacket chain) := by
  intro _
  simp only [rowWord, callWord, encode, Instr.port, rowMask, rowMatch]
  rfl

/-- A data header's top two bits are its two flags. -/
theorem dataHeader_top (length : BitVec 14) (c : Bool) :
    hdrEncode length.toNat c false &&& 0xC000#16 = if c then 0x4000#16 else 0#16 := by
  apply BitVec.eq_of_getLsbD_eq
  intro j hj
  simp only [hdrEncode, flagBit, BitVec.getLsbD_or, BitVec.getLsbD_and, BitVec.getLsbD_shiftLeft]
  cases c <;> interval_cases j <;> simp

theorem eemDataSentinel (length : BitVec 14) (n : Nat) : Statement (.eemDataSentinel length n) := by
  intro _
  simpa [rowWord, headerWord, Instr.port, encode, hdrBytes, hdrFromBytes_hdrBytes, rowMask, rowMatch]
    using dataHeader_top length false

theorem eemDataCrc (length : BitVec 14) (n : Nat) : Statement (.eemDataCrc length n) := by
  intro _
  simpa [rowWord, headerWord, Instr.port, encode, hdrBytes, hdrFromBytes_hdrBytes, rowMask, rowMatch]
    using dataHeader_top length true

theorem eemControl (low15 : BitVec 15) (n : Nat) : Statement (.eemControl low15 n) := by
  intro _
  simp only [rowWord, headerWord, Instr.port, encode, hdrBytes, hdrFromBytes_hdrBytes, rowMask, rowMatch]
  apply BitVec.eq_of_getLsbD_eq
  intro j hj
  simp only [BitVec.getLsbD_or, BitVec.getLsbD_and, BitVec.getLsbD_setWidth]
  interval_cases j <;> simp

theorem eemTxHeader (length : BitVec 14) : Statement (.eemTxHeader length) := by
  intro _
  simpa [rowWord, headerWord, Instr.port, encode, hdrBytes, hdrFromBytes_hdrBytes, rowMask, rowMatch]
    using dataHeader_top length false

end Sys2Proof.Laws.EncodeRow
end

