-- ==== Sys2Proof/Tests/Slice0.lean ====
section
/-!
SUPPORT. Small tests whose expected results come from spec/ (mostly spec/95_test_vectors.md), each about
one operation or one step, and for every statement with hypotheses a concrete state and operands that
meet all of them.
-/

namespace Sys2Proof.Tests

open Sys2Proof Sys2Proof.Machine

/-! ## Helper states -/

/-- The next state, if there is one. -/
def nextOf (o : Host.Outcome State Fault Refusal) : Option State :=
  match o with
  | .next s => some s
  | .fault _ => none
  | .refused _ => none

/-- The refusal, if it is one. -/
def refusalOf (o : Host.Outcome State Fault Refusal) : Option Refusal :=
  match o with
  | .next _ => none
  | .fault _ => none
  | .refused r => some r

/-- The fault, if it is one. -/
def faultOf (o : Host.Outcome State Fault Refusal) : Option Fault :=
  match o with
  | .next _ => none
  | .fault f => some f
  | .refused _ => none

/-- What a test looks at: the three control bits, the output actions and the result. -/
def seenBy (o : Host.Outcome State Fault Refusal) :
    Option ((Bool × Bool × RxState) × List Action × Option Result) :=
  (nextOf o).map fun s => ((s.inited, s.txReady, s.rxState), s.out, s.result)

/-- After INIT and CONFIG: (true, true, RX_ARMED). -/
def up : State :=
  { State.reset with inited := true, txReady := true, rxState := .armed, receiving := 1 }

/-- A send of six bytes is in flight. -/
def busy : State :=
  { up with txReady := false, txInflight := true, sending := [6]
            tx := [(0, 4), (1, 0), (2, 0xDE), (3, 0xAD), (4, 0xBE), (5, 0xEF)] }

/-- NET holds a frame of two bytes. -/
def held : State :=
  { up with rxState := .held, lease := some (2, 2), receiving := 0, rx := [(0, 6), (1, 0), (2, 0xA0), (3, 0xA1)] }

/-- `RX` armed with these bytes placed in it. -/
def withRx (bs : List Byte) : State := { up with rx := Memory.writeBytes [] 0 bs }

/-- `s` with these moves waiting. -/
def doing (moves : List Event) (s : State) : State := { s with pending := moves }

/-- The chain of the R122 example and of program P3. -/
def chainP3 : List Segment :=
  [⟨[0xAA, 0xBB, 0xCC], 6⟩, ⟨[], 3⟩, ⟨[0x11, 0x22, 0x33], 3⟩, ⟨[0xFF, 0xFF], 2⟩]

/-! ## WellFormed: one ill-formed term per check, and the boundary terms that pass -/

theorem test_wf_sentinel_needs_header : (Instr.eemDataSentinel 4 1).wellFormed = false := by decide
theorem test_wf_crc_needs_header : (Instr.eemDataCrc 4 1).wellFormed = false := by decide
theorem test_wf_control_needs_header : (Instr.eemControl 0 1).wellFormed = false := by decide
theorem test_wf_tx_header_too_short : (Instr.eemTxHeader 3).wellFormed = false := by decide
theorem test_wf_tx_header_too_long : (Instr.eemTxHeader 1519).wellFormed = false := by decide
theorem test_wf_boundaries : (Instr.eemDataSentinel 4 2).WellFormed ∧ (Instr.eemDataCrc 4 2).WellFormed ∧
    (Instr.eemControl 0 2).WellFormed ∧ (Instr.eemTxHeader 4).WellFormed ∧
    (Instr.eemTxHeader 1518).WellFormed := by decide

/-! ## Decoding: words written out from the tables of R70 and R60, bit by bit -/

theorem test_decode_init : decode .call [0b00000000] = .ok .init := by rfl
theorem test_decode_config : decode .call [0b00000001] = .ok .config := by rfl
theorem test_decode_rxArm : decode .call [0b00000010] = .ok .rxArm := by rfl
theorem test_decode_rxComplete : decode .call [0b00000011, 26] = .ok (.rxComplete 26) := by rfl
/-- 1520 = 112 + 128 * 11: the groups of seven bits, lowest first. -/
theorem test_decode_rxComplete_full :
    decode .call [0b00000011, 0xF0, 0x0B] = .ok (.rxComplete 1520) := by rfl
theorem test_decode_sendComplete : decode .call [0b00000100] = .ok .sendComplete := by rfl
theorem test_decode_txReady : decode .call [0b00000101] = .ok .txReady := by rfl
theorem test_decode_xmitPacket :
    decode .call [0b00000110, 4, 3, 6, 0xAA, 0xBB, 0xCC, 0, 3, 3, 3, 0x11, 0x22, 0x33, 2, 2, 0xFF, 0xFF]
      = .ok (.xmitPacket chainP3) := by rfl
/-- Header 0x0018: bmType 0, bmCRC 0, length 24 (V-H). -/
theorem test_decode_eemDataSentinel :
    decode (.received 26) [0b00011000, 0b00000000] = .ok (.eemDataSentinel 24 26) := by rfl
/-- Header 0x4032: bmType 0, bmCRC 1, length 50 (V-H). -/
theorem test_decode_eemDataCrc :
    decode (.received 52) [0b00110010, 0b01000000] = .ok (.eemDataCrc 50 52) := by rfl
/-- Header 0x8805: bmType 1, low 15 bits 0x0805 (V-H). -/
theorem test_decode_eemControl :
    decode (.received 10) [0b00000101, 0b10001000] = .ok (.eemControl 0x0805 10) := by rfl
/-- Header 0x05EE: the largest header the block produces (V-H). -/
theorem test_decode_eemTxHeader :
    decode .produced [0b11101110, 0b00000101] = .ok (.eemTxHeader 1518) := by rfl

/-- What is no instruction, by name. -/
theorem test_decode_refuses :
    decode .call [] = .error .empty ∧ decode .call [0b00000111] = .error .reservedOp ∧
    decode .call [0b00000011] = .error .truncated ∧ decode .call [0b00000011, 0x80] = .error .truncated ∧
    decode .call [0b00000110, 1, 2, 2, 0xAA] = .error .truncated ∧
    decode .call [0b00000000, 0] = .error .trailing ∧ decode (.received 1) [0, 0] = .error .noHeader ∧
    decode (.received 2) [0] = .error .noHeader ∧ decode .produced [3, 0] = .error .notProduced ∧
    decode .produced [0x32, 0x40] = .error .notProduced := by
  exact ⟨rfl, rfl, rfl, rfl, rfl, rfl, rfl, rfl, rfl, rfl⟩

/-! ## The header codec: the rows of V-H -/

/-- Each row: length, bmCRC, bmType, header, byte 0, byte 1. -/
def headerRows : List (Nat × Bool × Bool × Half × Byte × Byte) :=
  [(0, false, false, 0x0000, 0x00, 0x00), (4, false, false, 0x0004, 0x04, 0x00),
   (24, false, false, 0x0018, 0x18, 0x00), (50, false, false, 0x0032, 0x32, 0x00),
   (255, false, false, 0x00FF, 0xFF, 0x00), (256, false, false, 0x0100, 0x00, 0x01),
   (1518, false, false, 0x05EE, 0xEE, 0x05), (16383, false, false, 0x3FFF, 0xFF, 0x3F),
   (0, true, false, 0x4000, 0x00, 0x40), (50, true, false, 0x4032, 0x32, 0x40),
   (16383, true, false, 0x7FFF, 0xFF, 0x7F), (0, false, true, 0x8000, 0x00, 0x80),
   (1, false, true, 0x8001, 0x01, 0x80), (0, true, true, 0xC000, 0x00, 0xC0),
   (2053, false, true, 0x8805, 0x05, 0x88), (16383, true, true, 0xFFFF, 0xFF, 0xFF)]

theorem test_header_rows_encode : ∀ r ∈ headerRows,
    hdrEncode r.1 r.2.1 r.2.2.1 = r.2.2.2.1 ∧ hdrBytes r.2.2.2.1 = [r.2.2.2.2.1, r.2.2.2.2.2] := by decide

theorem test_header_rows_decode : ∀ r ∈ headerRows,
    hdrFromBytes r.2.2.2.2.1 r.2.2.2.2.2 = r.2.2.2.1 ∧
    hdrDecode r.2.2.2.1 = ⟨BitVec.ofNat 14 r.1, r.2.1, r.2.2.1⟩ := by decide

/-- D26: a length out of range keeps its low 14 bits. -/
theorem test_header_out_of_range :
    hdrEncode 16384 false false = 0x0000 ∧ hdrEncode 16434 false false = 0x0032 := by decide

/-! ## Link control (V-G) -/

theorem test_init_from_reset : seenBy (exec .init State.reset) = some ((true, false, .idle),
    [.regCallback .epOut .rxComplete, .regCallback .epIn .sendComplete], none) := by decide

theorem test_init_again : seenBy (exec .init busy) = some ((true, false, .armed),
    [.regCallback .epOut .rxComplete, .regCallback .epIn .sendComplete], none) := by decide

theorem test_config_forces_ready : seenBy (exec .config busy) = some ((true, true, .armed),
    [.recvReq .epOut .RX 1520], none) := by decide

/-- R175, R176: CONFIG ends the lease, and what USB carried is invalidated. -/
theorem test_config_ends_lease_and_transfers :
    (nextOf (exec .config held)).map (fun s => (s.rxState, s.lease)) = some (.armed, none) ∧
    (nextOf (exec .config busy)).map (fun s => (s.sending, s.receiving)) = some ([], 1) := by decide

/-! ## Receive path (V-A, V-R) -/

theorem test_rxArm_held : seenBy (exec .rxArm held) = some ((true, true, .armed),
    [.recvReq .epOut .RX 1520], some (.arm .done)) := by decide

theorem test_rxArm_armed_ignored : seenBy (exec .rxArm up) = some ((true, true, .armed), [],
    some (.arm .ignored)) := by decide

/-- The rows of V-R that have six bytes or fewer: the bytes, the actions, the status, the state after. -/
def receiveRows : List (List Byte × List Action × RxStatus × RxState) :=
  [([], [recvRequest], .short, .armed),
   ([0x80], [recvRequest], .short, .armed),
   ([0x00, 0x80], [recvRequest], .control, .armed),
   ([0x00, 0x80, 0x01], [recvRequest], .control, .armed),
   ([0x04, 0x00, 0x01], [recvRequest], .short, .armed),
   ([0x04, 0x00, 0x01, 0x02, 0x03], [recvRequest], .short, .armed),
   ([0x04, 0x00, 0xDE, 0xAD, 0xBE, 0xEF], [.frameOut 2 0], .forwarded, .held),
   ([0x05, 0x00, 0xDE, 0xAD, 0xBE, 0xEF], [recvRequest], .framing, .armed),
   ([0x00, 0x00, 0xDE, 0xAD, 0xBE, 0xEF], [.frameOut 2 0], .forwarded, .held),
   ([0x00, 0x00, 0, 0, 0, 0, 0, 0], [.frameOut 2 2], .forwarded, .held)]

theorem test_rxComplete_rows : ∀ r ∈ receiveRows,
    seenBy (step (doing [.transfer r.1] up)) =
      some ((true, true, r.2.2.2), r.2.1, some (.rx r.2.2.1)) := by decide

/-- n = 1520 and n = 1521, with headers EE 05 and FF 3F (V-R). -/
theorem test_rxComplete_at_capacity :
    seenBy (exec (.rxComplete 1520) (withRx [0xEE, 0x05])) = some ((true, true, .held),
      [.frameOut 2 1514], some (.rx .forwarded)) ∧
    seenBy (exec (.rxComplete 1520) (withRx [0xFF, 0x3F])) = some ((true, true, .armed),
      [recvRequest], some (.rx .framing)) ∧
    refusalOf (exec (.rxComplete 1521) (withRx [0xEE, 0x05])) = some (.overCapacity 1521) ∧
    refusalOf (exec (.rxComplete 26) held) = some .rxNotArmed := by decide

/-- Lengths 24, 25 and 23 in a transfer of 26 (V-R). -/
theorem test_eemDataSentinel_lengths :
    seenBy (exec (.eemDataSentinel 24 26) up) = some ((true, true, .held), [.frameOut 2 20],
      some (.rx .forwarded)) ∧
    seenBy (exec (.eemDataSentinel 25 26) up) = some ((true, true, .armed), [recvRequest],
      some (.rx .framing)) ∧
    seenBy (exec (.eemDataSentinel 23 26) up) = some ((true, true, .held), [.frameOut 2 20],
      some (.rx .forwarded)) := ⟨by decide, by decide, by decide⟩

/-- `bmCRC` is ignored (V-R). -/
theorem test_eemDataCrc_forwarded : seenBy (exec (.eemDataCrc 24 26) up) = some ((true, true, .held),
    [.frameOut 2 20], some (.rx .forwarded)) := by decide

/-- The control test comes before the data-size test (V-R). -/
theorem test_eemControl_three_bytes : seenBy (exec (.eemControl 0 3) up) = some ((true, true, .armed),
    [recvRequest], some (.rx .control)) := by decide

/-! ## Transmit path (V-T, V-G) -/

theorem test_sendComplete : seenBy (exec .sendComplete busy) = some ((true, true, .armed), [], none) := by
  decide

theorem test_txReady : seenBy (exec .txReady busy) =
    some ((true, false, .armed), [], some (.ready false)) := by decide

/-- Program P3, line 1. -/
theorem test_xmitPacket_p3 : seenBy (exec (.xmitPacket chainP3) up) = some ((true, false, .armed),
      [.sendReq .epIn .TX 12], some (.xmit .sent)) ∧
    (nextOf (exec (.xmitPacket chainP3) up)).map (fun s => (List.range 12).map s.txByte) =
      some [0x0A, 0x00, 0xAA, 0xBB, 0xCC, 0x11, 0x22, 0x33, 0xDE, 0xAD, 0xBE, 0xEF] := by decide

/-- The short rows of V-T that send nothing or whose first `tot_len` is wrong. -/
theorem test_xmitPacket_rows :
    seenBy (exec (.xmitPacket []) up) = some ((true, true, .armed), [], some (.xmit .malformed)) ∧
    seenBy (exec (.xmitPacket [⟨[1, 2, 3], 6⟩, ⟨[4, 5], 3⟩]) up) =
      some ((true, true, .armed), [], some (.xmit .malformed)) ∧
    seenBy (exec (.xmitPacket []) busy) = some ((true, false, .armed), [], some (.xmit .busy)) ∧
    (nextOf (exec (.xmitPacket [⟨[1, 2, 3], 9⟩, ⟨[4, 5], 2⟩]) up)).map (fun s => (s.out, s.tx)) =
      some ([.sendReq .epIn .TX 11], [(0, 9), (1, 0), (2, 1), (3, 2), (4, 3), (5, 4), (6, 5), (7, 0xDE),
        (8, 0xAD), (9, 0xBE), (10, 0xEF)]) ∧
    (nextOf (exec (.xmitPacket [⟨[], 0⟩]) up)).map (fun s => (s.out, s.tx)) =
      some ([.sendReq .epIn .TX 6], busy.tx) :=
  ⟨by decide, by decide, by decide, by decide, by decide⟩

/-- The largest header (V-H): EE 05. -/
theorem test_eemTxHeader : (nextOf (exec (.eemTxHeader 1518) up)).map (fun s => (s.tx, s.out, s.txReady)) =
    some ([(0, 0xEE), (1, 0x05)], [], true) ∧
    seenBy (exec (.eemTxHeader 1518) busy) = some ((true, false, .armed), [], some (.xmit .busy)) := by
  decide

/-! ## The agents, and the words of the opcode table -/

/-- USB's write while armed, NET's read of its lease, USB's read of its send, an offset past the end. -/
theorem test_agents :
    (nextOf (step (doing [.access (.usbWrite 1519 7)] up))).map State.rx = some [(1519, 7)] ∧
    (nextOf (step (doing [.access (.netRead 3)] held))).map State.seen = some (some 0xA1) ∧
    (nextOf (step (doing [.access (.usbRead 5)] busy))).map State.seen = some (some 0xEF) ∧
    faultOf (step (doing [.access (.usbWrite 1520 7)] up)) = some (.outsideBuffer .RX 1520) ∧
    faultOf (step (doing [.access (.usbRead 1520)] up)) = some (.outsideBuffer .TX 1520) := by decide

theorem test_withFetchWord :
    seenBy (step (State.reset.withFetchWord 8 3)) = some ((true, false, .armed), [recvRequest],
      some (.rx .short)) ∧
    seenBy (step (State.reset.withFetchWord 16 0x0000)) = some ((true, false, .held), [.frameOut 2 0],
      some (.rx .forwarded)) ∧
    seenBy (step (State.reset.withFetchWord 16 0x8000)) = some ((true, false, .armed), [recvRequest],
      some (.rx .control)) := ⟨by decide, by decide, by decide⟩

/-! ## Witnesses: for each statement with hypotheses, terms that meet them -/

theorem witness_DecodeOfEncode : (Instr.xmitPacket chainP3).WellFormed ∧
    (Instr.rxComplete 1521).WellFormed ∧ (Instr.eemControl 0x7FFF 2).WellFormed ∧
    (Instr.eemTxHeader 1518).WellFormed := by decide

/-- The field's maximum. -/
theorem witness_HeaderRoundTrip : 16383 < 16384 := by decide

theorem witness_DecodedIsWellFormed : decode .call [5] = .ok .txReady ∧
    decode (.received 2) [0, 0] = .ok (.eemDataSentinel 0 2) ∧
    decode .produced [4, 0] = .ok (.eemTxHeader 4) := by exact ⟨rfl, rfl, rfl⟩

/-- The largest word of each class and the shortest transfer. -/
theorem witness_ReceivedClassByMask : Config.hdrSize ≤ 2 ∧
    hdrFromBytes 0xFF 0x3F &&& 0xC000#16 = 0x0000#16 ∧ hdrFromBytes 0xFF 0x7F &&& 0xC000#16 = 0x4000#16 ∧
    hdrFromBytes 0x00 0x80 &&& 0x8000#16 = 0x8000#16 ∧ hdrFromBytes 0xFF 0xFF &&& 0x8000#16 = 0x8000#16 := by
  decide

theorem witness_ReservedCodeRefused : (0x07 : Byte).toNat % 8 = 7 ∧ (0xFF : Byte).toNat % 8 = 7 ∧
    (doing [.call [0x07]] up).pending = .call [0x07] :: [] := by decide

theorem witness_StepRunsDecodedCall :
    (doing [.call [3, 26]] up).pending = .call [3, 26] :: [] ∧
    decode .call [3, 26] = .ok (.rxComplete 26) ∧ (doing [.call [2]] held).pending = .call [2] :: [] ∧
    decode .call [2] = .ok .rxArm ∧ (∀ n, Instr.rxArm ≠ .rxComplete n) ∧ Instr.rxArm ≠ .sendComplete ∧
    (doing [.call [4]] busy).pending = .call [4] :: [] ∧ decode .call [4] = .ok .sendComplete := by
  exact ⟨rfl, rfl, rfl, rfl, (fun _ h => nomatch h), (fun h => nomatch h), rfl, rfl⟩

/-- Two bytes, and one. -/
theorem witness_StepRunsTransfer :
    (doing [.transfer [0, 0x80]] up).pending = .transfer (0 :: 0x80 :: []) :: [] ∧
    (doing [.transfer [0x80]] up).pending = .transfer [0x80] :: [] ∧ ([0x80] : List Byte).length < 2 := by
  decide

theorem witness_StepWithoutMoves : State.reset.pending = [] := by decide

/-- A packet of the least length in `TX`. -/
theorem busy_packet : PacketInTx busy 6 where
  shortest := by decide
  longest := by decide
  header := by decide
  sentinel := by decide

/-- `busy` with any moves waiting has both invariants. -/
theorem busy_inv (moves : List Event) : Inv (doing moves busy) where
  rxWf := by show Memory.wf busy.rx; decide
  txWf := by show Memory.wf busy.tx; decide
  gate := fun _ => rfl
  readyInited := fun _ => rfl
  rxInited := fun _ => rfl
  lease := ⟨(fun h => nomatch h), fun _ => rfl⟩
  packet := fun _ => ⟨6, rfl, busy_packet.of_tx (by rfl)⟩
  armed := fun _ => by show 0 < 1; decide
  idle := fun h => nomatch h
  draws := by show 0 < 1; decide

theorem busy_matched (moves : List Event) : Matched (doing moves busy) where
  oneSend := by show 1 ≤ 1; decide
  inflight := ⟨(fun _ h => nomatch h), fun _ => rfl⟩
  gate := fun _ => rfl
  packet := fun len h => by
    obtain rfl : len = 6 := List.mem_singleton.1 h
    exact busy_packet.of_tx (by rfl)
  recv := rfl

/-- Waiting, a matched and an unmatched SEND_COMPLETE: the invariant is kept through each. -/
theorem witness_StepKeepsInv :
    (∃ t, Inv (doing [] busy) ∧ step (doing [] busy) = .next t) ∧
    (∃ t, Inv (doing [.call [4]] busy) ∧ step (doing [.call [4]] busy) = .next t) ∧
    (∃ t, Inv (doing [.unmatched .send] busy) ∧ step (doing [.unmatched .send] busy) = .next t) :=
  ⟨⟨_, busy_inv _, rfl⟩, ⟨_, busy_inv _, rfl⟩, ⟨_, busy_inv _, rfl⟩⟩

theorem witness_BeforeInitAllRefused : State.reset.inited = false ∧ Instr.config ≠ .init ∧
    Instr.rxComplete 1521 ≠ .init ∧ Instr.eemTxHeader 0 ≠ .init := by decide

theorem witness_ConfigEffect : busy.inited = true ∧ held.inited = true ∧ State.reset.inited = false := by
  decide

theorem witness_RxArmEffect : (held.inited = true ∧ held.rxState = .held) ∧
    (up.inited = true ∧ (up.rxState = .idle ∨ up.rxState = .armed)) ∧ State.reset.inited = false := by
  decide

/-- Every clause, and every branch of the fourth at its boundary: n = 1, n = 2 (control), n = 5, n = 6
(one declared too many, exactly enough), n = 1520, n = 1521. -/
theorem witness_RxCompleteOutcome :
    State.reset.inited = false ∧ (held.inited = true ∧ held.rxState ≠ .armed) ∧
    (up.inited = true ∧ up.rxState = .armed ∧ 1520 < 1521 ∧ 1 ≤ 1520 ∧ 1520 ≤ 1520) ∧ 1 < 2 ∧
    (hdrDecode (hdrFromBytes 0x00 0x80)).bmType = true ∧
    (hdrDecode (hdrFromBytes 0x05 0x00)).bmType = false ∧ 5 < 6 ∧
    2 + (hdrDecode (hdrFromBytes 0x05 0x00)).length.toNat > 6 ∧
    ¬ 2 + (hdrDecode (hdrFromBytes 0x04 0x00)).length.toNat > 6 ∧
    ((withRx [0x05, 0x00]).rxByte 0 = 0x05 ∧ (withRx [0x05, 0x00]).rxByte 1 = 0x00) := by decide

theorem witness_ControlPacketDiscarded :
    up.inited = true ∧ up.rxState = .armed ∧ 2 ≤ 2 ∧ 1520 ≤ 1520 ∧
    (withRx [0x00, 0x80]).inited = true ∧ (withRx [0x00, 0x80]).rxState = .armed ∧
    (hdrFromBytes ((withRx [0x00, 0x80]).rxByte 0) ((withRx [0x00, 0x80]).rxByte 1)).getLsbD 15 = true := by
  decide

/-- n = 2, 5, 6 and 1520, with lengths 4 and 5. -/
theorem witness_DataPacketOutcome : up.inited = true ∧ up.rxState = .armed ∧ 2 ≤ 2 ∧ 1520 ≤ 1520 ∧ 5 < 6 ∧
    ¬ 6 < 6 ∧ 2 + (5 : BitVec 14).toNat > 6 ∧ ¬ 2 + (4 : BitVec 14).toNat > 6 := by decide

theorem witness_RxCompleteRunsClass : 2 ≤ 2 := by decide

/-- A payload of one byte; an empty one meets them as well. -/
theorem witness_DecodeStripsToPayload :
    up.inited = true ∧ up.rxState = .armed ∧ ([0xA0] : List Byte).length ≤ 1514 ∧
    ([0xDE, 0xAD, 0xBE, 0xEF] : List Byte).length = 4 ∧
    (∀ j, j < 2 + ([0xA0] : List Byte).length + 4 →
      some ((withRx [0x05, 0x00, 0xA0, 0xDE, 0xAD, 0xBE, 0xEF]).rxByte j) =
        (hdrBytes (hdrEncode (([0xA0] : List Byte).length + 4) false false) ++ [0xA0] ++
          [0xDE, 0xAD, 0xBE, 0xEF])[j]?) ∧
    (∀ j, j < 2 + ([] : List Byte).length + 4 →
      some ((withRx [0x04, 0x40, 1, 2, 3, 4]).rxByte j) =
        (hdrBytes (hdrEncode (([] : List Byte).length + 4) true false) ++ [] ++ [1, 2, 3, 4])[j]?) := by
  decide

/-- The longest payload. -/
theorem witness_longest_payload : (List.replicate 1514 (0x55 : Byte)).length ≤ 1514 ∧
    ¬ (List.replicate 1515 (0x55 : Byte)).length ≤ 1514 := by
  rw [List.length_replicate, List.length_replicate]; decide

theorem witness_TransferLendsPayload :
    up.inited = true ∧ up.rxState = .armed ∧ ([0xA0] : List Byte).length ≤ 1514 ∧
    ([1, 2, 3, 4] : List Byte).length = 4 ∧ 0 < ([0xA0] : List Byte).length ∧
    (doing [.transfer [0x05, 0x40, 0xA0, 1, 2, 3, 4], .access (.netRead 2)] up).pending =
      .transfer (hdrBytes (hdrEncode (([0xA0] : List Byte).length + 4) true false) ++ [0xA0] ++
        [1, 2, 3, 4]) :: .access (.netRead (2 + 0)) :: [] := by decide

theorem witness_FramesComeFromDataPackets :
    (∃ t, exec (.rxComplete 6) (withRx [0x04, 0x00]) = .next t ∧ .frameOut 2 0 ∈ t.out) ∧
    (∃ t, exec (.eemDataSentinel 24 26) up = .next t ∧ .frameOut 2 20 ∈ t.out) ∧
    (∃ t, exec (.eemDataCrc 1518 1520) up = .next t ∧ .frameOut 2 1514 ∈ t.out) :=
  ⟨⟨_, rfl, by decide⟩, ⟨_, rfl, by decide⟩, ⟨_, rfl, by decide⟩⟩

/-- Offset `n` itself is free. -/
theorem witness_BytesBeyondTransferAreFree :
    (∃ t, step (doing [.transfer [0x18]] up) = .next t) ∧ ([0x18] : List Byte).length ≤ 1 ∧
    (∃ t, step (doing [.call [3, 1]] (withRx [0x18, 0x80])) = .next t) ∧
    decode .call [3, 1] = .ok (.rxComplete 1) ∧
    (∃ t, step (doing [.unmatched (.recv 1)] (withRx [0x18, 0x80])) = .next t) :=
  ⟨⟨_, rfl⟩, by decide, ⟨_, rfl⟩, rfl, ⟨_, rfl⟩⟩

theorem witness_SendCompleteEffect : busy.inited = true ∧ State.reset.inited = false := by decide

theorem witness_TxReadyEffect : busy.inited = true ∧ State.reset.inited = false := by decide

/-- A marker at position 2, no marker, a consistent chain and an inconsistent one. -/
theorem witness_ChainTotalFindsFirstMarker : chainTotal chainP3 = .total 2 6 ∧
    chainTotal [⟨[1, 2, 3], 6⟩, ⟨[4, 5], 3⟩] = .noMarker ∧ chainTotal [] = .noMarker ∧
    chainTotal [⟨[1, 2, 3], 9⟩, ⟨[4, 5], 2⟩] = .total 1 5 ∧
    (∀ j seg, j ≤ 2 → chainP3[j]? = some seg →
      seg.totLen = (((chainP3.take 3).drop j).map (fun seg => seg.payload.length)).sum) := by
  refine ⟨rfl, rfl, rfl, rfl, fun j seg hj h => ?_⟩
  match j, hj with
  | 0, _ => cases h; rfl
  | 1, _ => cases h; rfl
  | 2, _ => cases h; rfl

theorem witness_ChainFlattenCopies : chainTotal chainP3 = .total 2 6 ∧ 6 ≤ 1514 ∧
    chainTotal [⟨[], 0⟩] = .total 0 0 := by decide

/-- The largest frame and one byte more (V-T). -/
theorem chainTotal_boundary :
    chainTotal [⟨List.replicate 1514 0x55, 1514⟩] = .total 0 1514 ∧
    chainTotal [⟨List.replicate 1515 0x55, 1515⟩] = .total 0 1515 := by
  simp only [chainTotal, chainTotalFrom, isMarker, segmentLen, List.length_replicate, Nat.zero_add,
    decide_true, if_true, and_self]

theorem witness_XmitBusyDropsFrame : busy.inited = true ∧ busy.txReady = false := by decide

theorem witness_XmitBadChainDropsFrame : up.inited = true ∧ up.txReady = true ∧
    chainTotal [] = .noMarker ∧ chainTotal [⟨List.replicate 1515 0x55, 1515⟩] = .total 0 1515 ∧
    1514 < 1515 :=
  ⟨rfl, rfl, rfl, chainTotal_boundary.2, by decide⟩

theorem witness_XmitSendsPacket : up.inited = true ∧ up.txReady = true ∧
    chainTotal chainP3 = .total 2 6 ∧ 6 ≤ 1514 ∧
    chainTotal [⟨List.replicate 1514 0x55, 1514⟩] = .total 0 1514 ∧ 1514 ≤ 1514 :=
  ⟨rfl, rfl, rfl, by decide, chainTotal_boundary.1, by decide⟩

theorem witness_TxHeaderFill : up.inited = true ∧ (Instr.eemTxHeader 4).WellFormed ∧
    (Instr.eemTxHeader 1518).WellFormed ∧ up.txReady = true ∧ busy.inited = true ∧
    busy.txReady = false := by decide

theorem witness_XmitFillsHeaderLast :
    ∃ t, up.txReady = true ∧ chainTotal chainP3 = .total 2 6 ∧ 6 ≤ 1514 ∧
      exec (.xmitPacket chainP3) up = .next t := ⟨_, rfl, rfl, by decide, rfl⟩

theorem witness_ProducedHeaderRange :
    ∃ t, exec (.xmitPacket chainP3) up = .next t ∧ t.result = some (.xmit .sent) := ⟨_, rfl, rfl⟩

/-- Program P3: the twelve bytes sent stand in the `RX` of another framer. -/
theorem witness_XmitThenReceive :
    ∃ t, chainTotal chainP3 = .total 2 6 ∧ exec (.xmitPacket chainP3) up = .next t ∧
      t.result = some (.xmit .sent) ∧ t.out = [.sendReq .epIn .TX 12] ∧
      (withRx [0x0A, 0x00, 0xAA, 0xBB, 0xCC, 0x11, 0x22, 0x33, 0xDE, 0xAD, 0xBE, 0xEF]).inited = true ∧
      (withRx [0x0A, 0x00, 0xAA, 0xBB, 0xCC, 0x11, 0x22, 0x33, 0xDE, 0xAD, 0xBE, 0xEF]).rxState =
        .armed ∧
      ∀ off, off < 12 →
        (withRx [0x0A, 0x00, 0xAA, 0xBB, 0xCC, 0x11, 0x22, 0x33, 0xDE, 0xAD, 0xBE, 0xEF]).rxByte off =
          t.txByte off :=
  ⟨_, rfl, rfl, rfl, rfl, rfl, rfl, by decide⟩

/-- Each instruction answers a next state somewhere: the statements over every `exec i s = .next t`
(GateMachine, the two frames, EngineWritesOnlyTx, ExtentsInsideBuffers) have a case for each. -/
theorem witness_exec_next : ∀ i ∈ ([.init, .config, .rxArm, .rxComplete 26, .sendComplete, .txReady,
    .xmitPacket chainP3, .eemDataSentinel 24 26, .eemDataCrc 24 26, .eemControl 0 10,
    .eemTxHeader 10] : List Instr), (nextOf (exec i (withRx [0x18, 0x00]))).isSome = true := by decide

/-- The three outcomes of XMIT_PACKET that GateMachine and TransmitSideFrame tell apart, and the gate BUSY
for EngineWritesOnlyTx. -/
theorem witness_gate_cases : xmitStored chainP3 up = 12 ∧ xmitStored [] up = 0 ∧
    xmitStored chainP3 busy = 0 ∧ busy.txReady = false ∧
    (nextOf (exec (.xmitPacket chainP3) busy)).isSome = true ∧
    (nextOf (exec (.xmitPacket []) up)).isSome = true ∧
    (nextOf (exec (.eemTxHeader 4) busy)).isSome = true := by decide

theorem witness_SendOnlyWhenReady :
    ∃ t, exec (.xmitPacket chainP3) up = .next t ∧ .sendReq .epIn .TX 12 ∈ t.out := ⟨_, rfl, by decide⟩

theorem witness_OneReceiveRequest :
    (∃ t, exec .config busy = .next t ∧ .recvReq .epOut .RX 1520 ∈ t.out) ∧
    (∃ t, exec .rxArm held = .next t ∧ .recvReq .epOut .RX 1520 ∈ t.out) ∧
    (∃ t, exec (.eemControl 0 2) up = .next t ∧ .recvReq .epOut .RX 1520 ∈ t.out) ∧
    (∃ t, exec .txReady up = .next t ∧ ∀ ep buf cap, .recvReq ep buf cap ∉ t.out) :=
  ⟨⟨_, rfl, by decide⟩, ⟨_, rfl, by decide⟩, ⟨_, rfl, by decide⟩, ⟨_, rfl, fun _ _ _ => List.not_mem_nil⟩⟩

/-- A receive state other than RX_IDLE, and RX_IDLE with CONFIG as the move. -/
theorem witness_LinkComesUpByConfigOnly :
    (∃ t, step (doing [.call [2]] held) = .next t ∧ held.rxState ≠ .idle ∧ held.inited = true) ∧
    (∃ t, step (doing [.call [1]] { State.reset with inited := true }) = .next t ∧
      State.reset.rxState = .idle) :=
  ⟨⟨_, rfl, by decide, rfl⟩, ⟨_, rfl, rfl⟩⟩

theorem witness_ExtentsInsideBuffers :
    (∃ t, exec (.eemDataCrc 1518 1520) up = .next t ∧ .frameOut 2 1514 ∈ t.out) ∧
    (∃ t, exec (.xmitPacket [⟨[], 0⟩]) up = .next t ∧ .sendReq .epIn .TX 6 ∈ t.out) :=
  ⟨⟨_, rfl, by decide⟩, ⟨_, rfl, by decide⟩⟩

/-- A duty kept for an operation, for a transfer and for each kind of access. -/
theorem witness_DutiesSuffice :
    (doing [.call [4]] busy).pending = .call [4] :: [] ∧ duty (.call [4]) busy ∧
    duty (.transfer [0x18]) up ∧ duty (.access (.usbWrite 1519 7)) up ∧
    duty (.access (.usbRead 5)) busy ∧ duty (.access (.netRead 3)) held :=
  ⟨rfl, ⟨rfl, fun h => nomatch h⟩, ⟨rfl, rfl, by decide, by decide⟩, ⟨rfl, by decide⟩, rfl, rfl⟩

theorem witness_TxStableWhileBusy :
    ∃ t, busy.txReady = false ∧ step (doing [.call [6, 1, 1, 1, 0x99]] busy) = .next t := ⟨_, rfl, rfl⟩

theorem witness_RxStableWhileHeld :
    ∃ t, held.rxState = .held ∧
      (∀ off b moves, (doing [.access (.netRead 2)] held).pending ≠
        .access (.usbWrite off b) :: moves) ∧
      step (doing [.access (.netRead 2)] held) = .next t :=
  ⟨_, rfl, (fun _ _ _ h => nomatch h), rfl⟩

/-- The last byte of `RX`. -/
theorem witness_UsbWriteStoresByte : up.rxState = .armed ∧ 1519 < 1520 ∧
    (doing [.access (.usbWrite 1519 7)] up).pending = .access (.usbWrite 1519 7) :: [] := by decide

/-- The last byte of a window and the first one after it, for both readers. -/
theorem witness_ReadsThroughWindows : 5 < 1520 ∧
    (doing [.access (.netRead 3)] held).pending = .access (.netRead 3) :: [] ∧ inLease held 3 = true ∧
    inLease held 4 = false ∧ (doing [.access (.usbRead 5)] busy).pending = .access (.usbRead 5) :: [] ∧
    inSend busy 5 = true ∧ inSend busy 6 = false := by decide

theorem witness_StuckBusyUntilCompletion :
    (∃ t, busy.txReady = false ∧ step (doing [.call [5]] busy) = .next t) ∧
    (∃ t, step (doing [.call [4]] busy) = .next t ∧ t.txReady = true) ∧
    decode .call [4] = .ok .sendComplete ∧
    (∃ t, step (doing [.unmatched .send] busy) = .next t ∧ t.txReady = true) :=
  ⟨⟨_, rfl, rfl⟩, ⟨_, rfl, rfl⟩, rfl, ⟨_, rfl, rfl⟩⟩

/-! ## Completions that answer no request (R176) -/

/-- R176: a matched SEND_COMPLETE ends the send; a stale one leaves it with the gate open. -/
theorem test_sendComplete_matched_and_stale :
    (nextOf (step (doing [.call [4]] busy))).map (fun s => (s.txReady, s.sending)) = some (true, []) ∧
    (nextOf (step (doing [.unmatched .send] busy))).map (fun s => (s.txReady, s.sending)) =
      some (true, [6]) := by decide

theorem witness_StepRunsUnmatchedCompletion :
    (doing [.unmatched .send] busy).pending = .unmatched .send :: [] ∧
    (doing [.unmatched (.recv 1520)] up).pending = .unmatched (.recv 1520) :: [] := by decide

/-- A matched completion, with both invariants before it. -/
theorem witness_StepKeepsMatched :
    Inv (doing [.call [4]] busy) ∧ Matched (doing [.call [4]] busy) ∧
    (∀ c moves, (doing [.call [4]] busy).pending ≠ .unmatched c :: moves) ∧
    ∃ t, step (doing [.call [4]] busy) = .next t :=
  ⟨busy_inv _, busy_matched _, (fun _ _ h => nomatch h), ⟨_, rfl⟩⟩

theorem witness_StaleCompletionOpensGate : busy.inited = true ∧ busy.sending ≠ [] ∧
    (doing [.unmatched .send] busy).pending = .unmatched .send :: [] := by decide

/-- Byte 0 of the new frame, at offset 2 of the packet of six bytes being sent. -/
theorem witness_StaleCompletionLosesSend : busy.inited = true ∧ busy.sending = [6] ∧
    chainTotal chainP3 = .total 2 6 ∧ 6 ≤ 1514 ∧ 0 < 6 ∧ 2 + 0 < 6 ∧
    (doing [.unmatched .send, .call (encode (.xmitPacket chainP3)), .access (.usbRead 2)] busy).pending =
      .unmatched .send :: .call (encode (.xmitPacket chainP3)) :: .access (.usbRead (2 + 0)) :: [] := by
  decide

/-- A stale receive completion that is dropped, and one that is forwarded. -/
theorem witness_StaleReceiveBreaksOneRequest :
    up.inited = true ∧ up.rxState = .armed ∧ 1520 ≤ 1520 ∧ up.receiving = 1 ∧
    (doing [.unmatched (.recv 1520)] up).pending = .unmatched (.recv 1520) :: [] ∧
    (nextOf (step (doing [.unmatched (.recv 1)] up))).map (fun s => (s.rxState, s.receiving)) =
      some (.armed, 2) ∧
    (nextOf (step (doing [.unmatched (.recv 6)] (withRx [4, 0])))).map
      (fun s => (s.rxState, s.receiving)) = some (.held, 1) :=
  ⟨rfl, rfl, by decide, rfl, rfl, by decide, by decide⟩

/-- Each clause: a duty kept in a state with both invariants, and a completion of each direction where USB
carries no request. -/
theorem witness_DutiesKeepMatched :
    (Inv (doing [.call [4]] busy) ∧ Matched (doing [.call [4]] busy) ∧
      duty (.call [4]) (doing [.call [4]] busy)) ∧
    decode .call [4] = .ok .sendComplete ∧ up.sending = [] ∧
    decode .call [3, 26] = .ok (.rxComplete 26) ∧ held.receiving = 0 :=
  ⟨⟨busy_inv _, busy_matched _, ⟨rfl, fun h => nomatch h⟩⟩, rfl, rfl, rfl, rfl⟩

end Sys2Proof.Tests
end

section
namespace Sys2Proof.Proofs

open Sys2Proof Sys2Proof.Machine

/-! ## Steps (spec/00_scope.md R10) -/

/-- Settles O11: where `pending` is empty, `step` takes its first branch, which waits (`idle`). -/
theorem stepWithoutMoves : Obligations.StepWithoutMoves := by
  intro s hpending
  have hidle : step s = idle s := by simp only [step, hpending]
  exact hidle.trans rfl

end Sys2Proof.Proofs
end

section
namespace Sys2Proof.Machine

/-! ## The effects of the operations

`Effect s i t` names, one constructor per outcome, what the operation `i` makes of `s`. The step lemmas
and the frames below split along it. -/

/-- The outcomes of the operations on the states in which they go through. -/
inductive Effect (s : State) : Instr → State → Prop
  /-- R90 -/
  | init : Effect s .init
      { s with
        inited := true
        out := [.regCallback .epOut .rxComplete, .regCallback .epIn .sendComplete]
        result := none }
  /-- R91 -/
  | config (inited : s.inited = true) :
      Effect s .config ((s.enter.invalidate.emit recvRequest).setRx .armed).openGate
  /-- R100, in RX_HELD -/
  | rearm (inited : s.inited = true) (held : s.rxState = .held) :
      Effect s .rxArm (((s.enter.emit recvRequest).setRx .armed).finish (.arm .done))
  /-- R100, elsewhere -/
  | rearmIgnored (held : s.rxState ≠ .held) :
      Effect s .rxArm (s.enter.finish (.arm .ignored))
  /-- R103, R105, R106 -/
  | drop {i : Instr} (transfer : needsTransfer i = true) (armed : s.rxState = .armed)
      (why : RxStatus) : Effect s i (rxDrop why s.enter)
  /-- R104 -/
  | forward {i : Instr} {n : Nat} (transfer : needsTransfer i = true)
      (data : ∀ low15 m, i ≠ .eemControl low15 m) (inited : s.inited = true)
      (armed : s.rxState = .armed) (shortest : 6 ≤ n) (longest : n ≤ 1520) : Effect s i
      { s with
        rxState := .held
        out := [.frameOut 2 (n - 6)]
        lease := some (2, n - 6)
        result := some (.rx .forwarded) }
  /-- R120 -/
  | sendComplete (inited : s.inited = true) : Effect s .sendComplete s.enter.openGate
  /-- R121 -/
  | txReady : Effect s .txReady (s.enter.finish (.ready s.txReady))
  /-- R125 to R127 -/
  | frameDropped {chain : List Segment} (stored : xmitStored chain s = 0)
      (why : XmitStatus) : Effect s (.xmitPacket chain) (s.enter.finish (.xmit why))
  /-- R124, R128 to R131 -/
  | frameSent {chain : List Segment} {k total : Nat} (inited : s.inited = true)
      (ready : s.txReady = true) (walk : chainTotal chain = .total k total) (fits : total ≤ 1514) :
      Effect s (.xmitPacket chain)
        { s with
          tx := (xmitSend chain k total s.enter).tx
          txReady := false
          txInflight := true
          out := [.sendReq .epIn .TX (2 + (total + 4))]
          sending := s.sending ++ [2 + (total + 4)]
          result := some (.xmit .sent) }
  /-- R129, with the gate READY -/
  | headerFilled {length : BitVec 14} (ready : s.txReady = true) :
      Effect s (.eemTxHeader length) (fillHeader length.toNat s.enter)
  /-- R125 for the header fill by itself (log 4) -/
  | headerDropped {length : BitVec 14} (busy : s.txReady = false) :
      Effect s (.eemTxHeader length) (s.enter.finish (.xmit .busy))

theorem xmitStored_of_busy {s : State} (h : s.txReady = false) (chain : List Segment) :
    xmitStored chain s = 0 := by
  simp [xmitStored, h]

theorem xmitStored_of_noMarker {s : State} {chain : List Segment} (h : chainTotal chain = .noMarker) :
    xmitStored chain s = 0 := by
  simp [xmitStored, h]

theorem xmitStored_of_oversize {s : State} {chain : List Segment} {k total : Nat}
    (h : chainTotal chain = .total k total) (hl : 1514 < total) : xmitStored chain s = 0 := by
  simp [xmitStored, h, Config.mss, hl]

theorem xmitStored_of_sent {s : State} {chain : List Segment} {k total : Nat}
    (hr : s.txReady = true) (h : chainTotal chain = .total k total) (hl : total ≤ 1514) :
    xmitStored chain s = 2 + total + 4 := by
  simp [xmitStored, hr, h, Config.mss, Config.hdrSize, Config.trailerSize, Nat.not_lt.2 hl]

/-- Every operation that goes through has one of these effects. -/
theorem effect_of_exec {i : Instr} {s t : State} (h : exec i s = .next t) : Effect s i t := by
  rcases exec_eq_next h with ⟨rfl, rfl⟩ | ⟨hi, ⟨rfl, rfl⟩ | ⟨rfl, hh, rfl⟩ | ⟨rfl, hh, rfl⟩ |
    ⟨hn, ha, why, rfl⟩ | ⟨hn, hd, ha, n, h6, hl, rfl⟩ | ⟨rfl, rfl⟩ | ⟨rfl, rfl⟩ |
    ⟨chain, rfl, hx⟩ | ⟨length, rfl, hx⟩⟩
  · exact .init
  · exact .config hi
  · exact .rearm hi hh
  · exact .rearmIgnored hh
  · exact .drop hn ha why
  · exact .forward hn hd hi ha h6 hl
  · exact .sendComplete hi
  · exact .txReady
  · rcases hx with ⟨hb, rfl⟩ | ⟨-, hc, rfl⟩ | ⟨k, total, -, hc, hl, rfl⟩ | ⟨k, total, hr, hc, hl, rfl⟩
    · exact .frameDropped (xmitStored_of_busy hb chain) .busy
    · exact .frameDropped (xmitStored_of_noMarker hc) .malformed
    · exact .frameDropped (xmitStored_of_oversize hc hl) .oversize
    · have e : Effect s (.xmitPacket chain) _ := .frameSent hi hr hc hl
      rw [xmitSend_eq] at e ⊢
      exact e
  · rcases hx with ⟨hb, rfl⟩ | ⟨hr, rfl⟩
    · exact .headerDropped hb
    · exact .headerFilled hr

/-- A step whose next move runs `i` is `i` on the state its invoker leaves. -/
theorem step_of_fetch_instr {s : State} {e : Event} {rest : List Event} {i : Instr}
    (hp : s.pending = e :: rest) (hf : fetch e = .instr i) :
    step s = exec i (arrive e i { s with pending := rest }) := by
  simp only [step, hp, hf]

/-! ## The packet an operation leaves in `TX` -/

/-- XMIT_PACKET leaves a class packet of `L + 6` bytes in `TX` (R128 to R131). -/
theorem packetInTx_xmitSend {chain : List Segment} {k total : Nat} (s : State)
    (h : chainTotal chain = .total k total) (hl : total ≤ 1514) :
    PacketInTx (xmitSend chain k total s) (2 + (total + 4)) where
  shortest := by simp only [Config.hdrSize, Config.trailerSize]; omega
  longest := by simp only [Config.bufCap]; omega
  header := by
    have hlen : (chainPayload chain k).length = total := chainTotal_eq_total h
    have hval : 2 + (total + 4) - Config.hdrSize = total + Config.trailerSize := by
      simp only [Config.hdrSize, Config.trailerSize]
      omega
    rw [xmitSend_txByte s h, xmitSend_txByte s h, packetBytes, hlen, hval]
    exact hdrFromBytes_hdrBytes (hdrEncode (total + Config.trailerSize) false false)
  sentinel := by
    intro j hj
    have hlen : (chainPayload chain k).length = total := chainTotal_eq_total h
    have hidx : 2 + (total + 4) - Config.trailerSize + j = 2 + total + j := by
      simp only [Config.trailerSize]
      omega
    have hpre : ∀ h : Half, (hdrBytes h ++ chainPayload chain k).length = 2 + total := fun h => by
      rw [List.length_append, hlen]
      rfl
    rw [hidx, xmitSend_txByte s h, packetBytes, List.getElem?_append_right (by rw [hpre]; omega), hpre,
      Nat.add_sub_cancel_left, List.getElem?_eq_getElem (show j < Config.sentinel.length from hj)]
    rfl

/-- XMIT_PACKET keeps `TX` in canonical form: the packet lies inside the buffer (R51). -/
theorem txWf_xmitSend {chain : List Segment} {k total : Nat} {s : State} (hw : s.tx.wf)
    (h : chainTotal chain = .total k total) (hl : total ≤ 1514) :
    (xmitSend chain k total s).tx.wf := by
  have hlen : (chainPayload chain k).length = total := chainTotal_eq_total h
  rw [xmitSend_eq]
  refine Memory.wf_writeBytes (Memory.wf_writeBytes (Memory.wf_writeBytes hw ?_) ?_) ?_
  · rw [hlen]
    simp only [Config.hdrSize, Config.bufCap]
    omega
  · simp only [Config.hdrSize, Config.bufCap, Config.sentinel, List.length_cons, List.length_nil]
    omega
  · exact Nat.le_of_ble_eq_true rfl

/-- The header fill keeps `TX` in canonical form. -/
theorem txWf_fillHeader {s : State} (hw : s.tx.wf) (length : Nat) : (fillHeader length s).tx.wf :=
  Memory.wf_writeBytes hw (Nat.le_of_ble_eq_true rfl)

end Sys2Proof.Machine
end

section
namespace Sys2Proof.Machine

/-! ## The invariant of every step -/

/-- While the transmit buffer and the sends stay, so does the packet in flight. -/
theorem Inv.packet_congr {s t : State} (h : Inv s) (htx : t.tx = s.tx)
    (hs : t.sending = s.sending) :
    s.txInflight = true → ∃ len, t.sending.getLast? = some len ∧ PacketInTx t len := fun hf =>
  have ⟨len, hlast, hp⟩ := h.packet hf
  ⟨len, hs ▸ hlast, hp.of_tx htx⟩

theorem Inv.not_inflight_of_ready {s : State} (h : Inv s) (hr : s.txReady = true) :
    ¬ s.txInflight = true := fun hf => by
  simp [h.gate hf] at hr

theorem Inv.takeMove {s : State} (h : Inv s) (moves : List Event) : Inv { s with pending := moves } :=
  { h with packet := h.packet_congr rfl rfl }

theorem Inv.answered {s : State} (h : Inv s) (r : Result) : Inv (s.enter.finish r) :=
  { h with packet := h.packet_congr rfl rfl }

/-- SEND_COMPLETE keeps the invariant, whatever USB carries after it: R120 ends the ghost, so nothing is
claimed of the sends. -/
theorem Inv.sendCompleted {s : State} (h : Inv s) (hi : s.inited = true) (sends : List Nat) :
    Inv { s.enter.openGate with sending := sends } :=
  { h with gate := nofun, readyInited := fun _ => hi, packet := nofun }

/-- The operations that no transfer delivers keep the invariant. -/
theorem Inv.effect {s t : State} {i : Instr} (h : Inv s) (hn : needsTransfer i = false)
    (e : Effect s i t) : Inv t := by
  cases e with
  | init =>
    exact { h with
      readyInited := fun _ => rfl
      rxInited := fun _ => rfl
      packet := h.packet_congr rfl rfl }
  | config hi =>
    exact { h with
      gate := nofun
      readyInited := fun _ => hi
      rxInited := fun _ => hi
      lease := ⟨nofun, fun _ => rfl⟩
      packet := nofun
      armed := fun _ => Nat.one_pos
      idle := nofun }
  | rearm hi hh =>
    exact { h with
      rxInited := fun _ => hi
      lease := ⟨nofun, fun _ => rfl⟩
      packet := h.packet_congr rfl rfl
      armed := fun _ => Nat.succ_pos s.receiving
      idle := nofun }
  | rearmIgnored => exact h.answered _
  | drop ht => exact absurd ht (by simp [hn])
  | forward ht => exact absurd ht (by simp [hn])
  | sendComplete hi => exact h.sendCompleted hi s.sending
  | txReady => exact h.answered _
  | frameDropped => exact h.answered _
  | @frameSent chain k total hi hr walk fits =>
    exact { h with
      txWf := txWf_xmitSend h.txWf walk fits
      gate := fun _ => rfl
      readyInited := nofun
      packet := fun _ => ⟨2 + (total + 4), List.getLast?_concat,
        PacketInTx.of_tx (s := xmitSend chain k total s.enter) rfl
          (packetInTx_xmitSend s.enter walk fits)⟩ }
  | headerFilled hr =>
    exact { h with
      txWf := txWf_fillHeader h.txWf _
      packet := fun hf => absurd hf (h.not_inflight_of_ready hr) }
  | headerDropped => exact h.answered _

/-- `s` as a receive completion leaves it before its operation runs: USB has handed `RX` over holding `m`
(the rest is unspecified, R52) and carries `r` receive requests (R48). -/
def State.handedOver (s : State) (m : Memory) (r : Nat) : State :=
  { s with rx := m, rxDraw := s.nextDraw, nextDraw := s.nextDraw + 1, receiving := r }

/-- A receive completion keeps the invariant, however many requests USB then carries: where the receive
is dropped the block arms a new one, and otherwise the frame is lent. -/
theorem Inv.effect_handedOver {s t : State} {i : Instr} {m : Memory} {r : Nat} (h : Inv s)
    (hm : m.wf) (hn : needsTransfer i = true) (e : Effect (s.handedOver m r) i t) : Inv t := by
  cases e with
  | drop _ ha =>
    exact { h with
      rxWf := hm
      lease := ⟨fun hh => (nomatch ha.symm.trans hh), fun _ => rfl⟩
      packet := h.packet_congr rfl rfl
      armed := fun _ => Nat.succ_pos r
      idle := fun hidle => nomatch ha.symm.trans hidle
      draws := Nat.lt_succ_self s.nextDraw }
  | @forward _ n _ _ hi _ _ longest =>
    exact { h with
      rxWf := hm
      rxInited := fun _ => hi
      lease := ⟨fun _ => ⟨n - 6, rfl, Nat.sub_le_sub_right longest 6⟩, fun hh => absurd rfl hh⟩
      packet := h.packet_congr rfl rfl
      armed := nofun
      idle := nofun
      draws := Nat.lt_succ_self s.nextDraw }
  | _ => cases hn

/-- An agent's access keeps the invariant. -/
theorem Inv.access {s t : State} {a : Access} (h : Inv s) (ha : agentAccess a s = .next t) :
    Inv t := by
  rcases agentAccess_eq_next ha with ⟨off, b, -, hoff, -, rfl⟩ | ⟨off, b, -, -, -, rfl⟩ | ⟨b, rfl⟩ | rfl
  · exact { h with rxWf := Memory.wf_write h.rxWf hoff b, packet := h.packet_congr rfl rfl }
  · exact { h with
      rxWf := Memory.wf_nil
      packet := h.packet_congr rfl rfl
      draws := Nat.lt_succ_self s.nextDraw }
  · exact { h with packet := h.packet_congr rfl rfl }
  · exact { h with packet := h.packet_congr rfl rfl, draws := Nat.lt_succ_of_lt h.draws }

/-- A move that runs an operation keeps the invariant. -/
theorem Inv.move {s t : State} {e : Event} {i : Instr} (h : Inv s) (hf : fetch e = .instr i)
    (hx : exec i (arrive e i s) = .next t) : Inv t := by
  rcases arrive_cases hf s with ⟨hn, -, harr⟩ | ⟨rfl, -, harr⟩ | ⟨hn, m, r, hm, -, harr⟩
  · exact h.effect hn (effect_of_exec (harr ▸ hx))
  · cases effect_of_exec (harr ▸ hx) with
    | drop ht => cases ht
    | forward ht => cases ht
    | sendComplete hi => exact h.sendCompleted hi s.sending.tail
  · exact h.effect_handedOver (hm h.rxWf) hn (effect_of_exec (harr ▸ hx))

/-! ## The requests USB carries -/

/-- While the transmit buffer and the sends stay, every send USB carries is still a class packet. -/
theorem Matched.packet_congr {s t : State} (h : Matched s) (htx : t.tx = s.tx) :
    ∀ len ∈ s.sending, PacketInTx t len := fun len hlen => (h.packet len hlen).of_tx htx

theorem packetInTx_of_noSend {sends : List Nat} {t : State} (hs : sends = []) :
    ∀ len ∈ sends, PacketInTx t len := by
  simp [hs]

theorem Matched.takeMove {s : State} (h : Matched s) (moves : List Event) :
    Matched { s with pending := moves } :=
  { h with packet := h.packet_congr rfl }

theorem Matched.answered {s : State} (h : Matched s) (r : Result) : Matched (s.enter.finish r) :=
  { h with packet := h.packet_congr rfl }

/-- R29: while the gate is READY, USB carries no send. -/
theorem Matched.sending_of_ready {s : State} (h : Matched s) (hr : s.txReady = true) :
    s.sending = [] := by
  by_contra hs
  simp [h.gate hs] at hr

theorem Matched.tail_sending {s : State} (h : Matched s) : s.sending.tail = [] :=
  List.eq_nil_of_length_eq_zero (by have := h.oneSend; simp; omega)

/-- The operations that answer no completion keep what holds of the requests USB carries. -/
theorem Matched.effect {s t : State} {i : Instr} (h : Matched s) (hn : needsTransfer i = false)
    (hc : i ≠ .sendComplete) (e : Effect s i t) : Matched t := by
  cases e with
  | init => exact { h with packet := h.packet_congr rfl }
  | config =>
    exact {
      oneSend := Nat.zero_le 1
      inflight := ⟨nofun, fun hs => absurd rfl hs⟩
      gate := fun hs => absurd rfl hs
      packet := nofun
      recv := rfl }
  | rearm _ hh =>
    have hrecv : s.receiving = 0 := by rw [h.recv, hh]; rfl
    exact { h with packet := h.packet_congr rfl, recv := congrArg Nat.succ hrecv }
  | rearmIgnored => exact h.answered _
  | drop ht => exact absurd ht (by simp [hn])
  | forward ht => exact absurd ht (by simp [hn])
  | sendComplete => exact absurd rfl hc
  | txReady => exact h.answered _
  | frameDropped => exact h.answered _
  | @frameSent chain k total hi hr walk fits =>
    have hs := h.sending_of_ready hr
    have hp := packetInTx_xmitSend s.enter walk fits
    rw [hs]
    exact { h with
      oneSend := Nat.le_refl 1
      inflight := ⟨fun _ => nofun, fun _ => rfl⟩
      gate := fun _ => rfl
      packet := fun len hlen => by
        rw [List.mem_singleton.1 hlen]
        exact hp.of_tx (s := xmitSend chain k total s.enter) rfl }
  | headerFilled hr =>
    exact { h with packet := packetInTx_of_noSend (h.sending_of_ready hr) }
  | headerDropped => exact h.answered _

/-- The completion of the one send leaves none, with the gate READY. -/
theorem Matched.effect_sendDone {s t : State} (h : Matched s)
    (e : Effect s.sendDone .sendComplete t) : Matched t := by
  cases e with
  | drop ht => cases ht
  | forward ht => cases ht
  | sendComplete =>
    have hs : s.sendDone.enter.openGate.sending = [] := h.tail_sending
    exact { h with
      oneSend := by rw [hs]; exact Nat.zero_le 1
      inflight := ⟨nofun, fun hne => absurd hs hne⟩
      gate := fun hne => absurd hs hne
      packet := packetInTx_of_noSend hs }

/-- The completion of the one receive request leaves none; a drop then issues a new one. -/
theorem Matched.effect_handedOver {s t : State} {i : Instr} {m : Memory} (h : Matched s)
    (hn : needsTransfer i = true) (e : Effect (s.handedOver m (s.receiving - 1)) i t) :
    Matched t := by
  have hrecv (ha : s.rxState = .armed) : s.receiving - 1 = 0 := by rw [h.recv, ha]; rfl
  cases e with
  | drop _ ha =>
    exact { h with
      packet := h.packet_congr rfl
      recv := (congrArg Nat.succ (hrecv ha)).trans (if_pos ha).symm }
  | forward _ _ _ ha => exact { h with packet := h.packet_congr rfl, recv := hrecv ha }
  | _ => cases hn

/-- No agent's access touches a request. -/
theorem Matched.access {s t : State} {a : Access} (h : Matched s) (ha : agentAccess a s = .next t) :
    Matched t := by
  rcases agentAccess_eq_next ha with ⟨_, _, -, -, -, rfl⟩ | ⟨_, _, -, -, -, rfl⟩ | ⟨_, rfl⟩ | rfl <;>
    exact { h with packet := h.packet_congr rfl }

/-- A move that runs an operation, and is no unmatched completion, keeps what holds of the requests USB
carries. -/
theorem Matched.move {s t : State} {e : Event} {i : Instr} (h : Matched s)
    (hf : fetch e = .instr i) (he : ∀ c, e ≠ .unmatched c) (hx : exec i (arrive e i s) = .next t) :
    Matched t := by
  rcases arrive_cases hf s with ⟨hn, hc, harr⟩ | ⟨rfl, -, harr⟩ | ⟨hn, m, r, -, hr, harr⟩
  · exact h.effect hn (fun hi => he _ (hc hi)) (effect_of_exec (harr ▸ hx))
  · exact h.effect_sendDone (effect_of_exec (harr ▸ hx))
  · rcases hr with ⟨rfl, -⟩ | ⟨-, c, hu⟩
    · exact h.effect_handedOver hn (effect_of_exec (harr ▸ hx))
    · exact absurd hu (he c)

end Sys2Proof.Machine

namespace Sys2Proof.Proofs

open Sys2Proof Sys2Proof.Machine

/-- Settles O14, by the effects of the operation on the state its invoker leaves. -/
theorem stepKeepsInv : Obligations.StepKeepsInv := by
  intro s t h hstep
  rcases step_eq_next hstep with ⟨-, rfl⟩ | ⟨e, rest, i, -, hf, hx⟩ | ⟨e, rest, a, -, -, hx⟩
  · exact h
  · exact (h.takeMove rest).move hf hx
  · exact (h.takeMove rest).access hx

/-- Settles O54, likewise; the premise excludes the one move that leaves a request uncounted. -/
theorem stepKeepsMatched : Obligations.StepKeepsMatched := by
  rintro s t - h hmatched hstep
  rcases step_eq_next hstep with ⟨-, rfl⟩ | ⟨e, rest, i, hp, hf, hx⟩ | ⟨e, rest, a, -, -, hx⟩
  · exact h
  · exact (h.takeMove rest).move hf (fun c he => hmatched c rest (he ▸ hp)) hx
  · exact (h.takeMove rest).access hx

end Sys2Proof.Proofs
end

section
namespace Sys2Proof.Machine

/-! ## What the operations leave unchanged -/

/-- R22: the ENGINE never writes `RX`. -/
theorem Effect.sameRx {s t : State} {i : Instr} (e : Effect s i t) : SameRx s t := by
  cases e <;> exact fun _ => rfl

theorem Effect.sameAgents {s t : State} {i : Instr} (e : Effect s i t) : SameAgents s t := by
  cases e <;> exact ⟨rfl, rfl, rfl, rfl⟩

/-- R23: only XMIT_PACKET and its header fill write `TX`. -/
theorem Effect.sameTx_of_no_fill {s t : State} {i : Instr} (e : Effect s i t)
    (hx : ∀ chain, i ≠ .xmitPacket chain) (hh : ∀ length, i ≠ .eemTxHeader length) : SameTx s t := by
  cases e with
  | frameSent => exact absurd rfl (hx _)
  | headerFilled => exact absurd rfl (hh _)
  | _ => exact fun _ => rfl

/-- R46: with the gate BUSY no operation writes `TX`. -/
theorem Effect.sameTx_of_busy {s t : State} {i : Instr} (e : Effect s i t)
    (hb : s.txReady = false) : SameTx s t := by
  cases e with
  | frameSent _ hr => cases hb.symm.trans hr
  | headerFilled hr => cases hb.symm.trans hr
  | _ => exact fun _ => rfl

/-- A sent packet leaves every byte beyond it. -/
theorem xmitSend_txByte_of_beyond {chain : List Segment} {k total a : Nat} (s : State)
    (h : chainTotal chain = .total k total) (ha : 2 + total + 4 ≤ a) :
    (xmitSend chain k total s).txByte a = s.txByte a := by
  have hlen : (packetBytes (chainPayload chain k)).length = 2 + total + 4 := by
    rw [length_packetBytes, show (chainPayload chain k).length = total from chainTotal_eq_total h]
    rfl
  rw [xmitSend_txByte s h, List.getElem?_eq_none (by omega)]
  rfl

end Sys2Proof.Machine

namespace Sys2Proof.Proofs

open Sys2Proof Sys2Proof.Machine

/-- Settles O39, by the effects on the receive side; a packet class has those of RX_COMPLETE. -/
theorem receiveSideFrame : Obligations.ReceiveSideFrame := by
  intro i s t h
  have e := effect_of_exec h
  have hrx := e.sameRx
  have htx := e.sameTx_of_no_fill
  have hag := e.sameAgents
  cases e with
  | init => exact ⟨hrx, htx nofun nofun, hag, rfl, rfl, rfl, rfl, rfl, rfl⟩
  | config => exact ⟨hrx, htx nofun nofun, hag, rfl⟩
  | rearm => exact ⟨hrx, htx nofun nofun, hag, rfl, rfl, rfl, rfl⟩
  | rearmIgnored => exact ⟨hrx, htx nofun nofun, hag, rfl, rfl, rfl, rfl⟩
  | drop ht =>
    cases i with
    | rxComplete | eemDataSentinel | eemDataCrc =>
      exact ⟨hrx, htx nofun nofun, hag, rfl, rfl, rfl, rfl⟩
    | eemControl => exact ⟨hrx, htx nofun nofun, hag, rfl, rfl, rfl, rfl, rfl⟩
    | _ => cases ht
  | forward ht hdata =>
    cases i with
    | rxComplete | eemDataSentinel | eemDataCrc =>
      exact ⟨hrx, htx nofun nofun, hag, rfl, rfl, rfl, rfl⟩
    | eemControl low15 n => exact absurd rfl (hdata low15 n)
    | _ => cases ht
  | _ => trivial

/-- Settles O40, by the effects on the transmit side. -/
theorem transmitSideFrame : Obligations.TransmitSideFrame := by
  intro i s t h
  have e := effect_of_exec h
  have hrx := e.sameRx
  have hag := e.sameAgents
  cases e with
  | sendComplete => exact ⟨hrx, fun _ => rfl, hag, rfl, rfl, rfl, rfl, rfl⟩
  | txReady => exact ⟨hrx, fun _ => rfl, hag, rfl, rfl, rfl, rfl, rfl, rfl, rfl⟩
  | frameDropped => exact ⟨hrx, hag, rfl, rfl, rfl, rfl, fun _ _ => rfl, fun _ => ⟨rfl, rfl, rfl⟩⟩
  | frameSent _ hr walk fits =>
    have hstored := xmitStored_of_sent hr walk fits
    refine ⟨hrx, hag, rfl, rfl, rfl, rfl, fun off hoff => ?_, fun hzero => by omega⟩
    exact xmitSend_txByte_of_beyond s.enter walk (hstored ▸ hoff)
  | headerFilled hr =>
    refine ⟨hrx, hag, rfl, rfl, rfl, rfl, rfl, rfl, rfl, fun off hoff => ?_, fun hb => ?_⟩
    · exact State.txByte_txWrite_of_outside s.enter (.inr hoff)
    · cases hb.symm.trans hr
  | headerDropped =>
    exact ⟨hrx, hag, rfl, rfl, rfl, rfl, rfl, rfl, rfl, fun _ _ => rfl, fun _ _ => rfl⟩
  | drop ht | forward ht =>
    cases i with
    | rxComplete | eemDataSentinel | eemDataCrc | eemControl => trivial
    | _ => cases ht
  | _ => trivial

/-- Settles O42, by the three frame lemmas. -/
theorem engineWritesOnlyTx : Obligations.EngineWritesOnlyTx := by
  intro i s t h
  have e := effect_of_exec h
  exact ⟨e.sameRx, e.sameTx_of_no_fill, e.sameTx_of_busy⟩

/-- Settles O43: of the effects only that of a sent packet has a SEND_REQ among its outputs. -/
theorem sendOnlyWhenReady : Obligations.SendOnlyWhenReady := by
  intro i s t ep buf len h hmem
  cases effect_of_exec h with
  | @frameSent chain _ _ _ hr =>
    obtain ⟨rfl, rfl, rfl⟩ := by simpa using hmem
    exact ⟨hr, rfl, rfl, rfl, chain, rfl⟩
  | _ => simp [rxDrop, recvRequest, fillHeader] at hmem

/-- Settles O44: the effects with a RECV_REQ are those of CONFIG, of RX_ARM in RX_HELD and of a dropped
transfer; every other one has none and leaves the count. -/
theorem oneReceiveRequest : Obligations.OneReceiveRequest := by
  refine ⟨fun i s t ep buf cap h hmem => ?_, fun i s t h hnone => ?_⟩
  · cases effect_of_exec h with
    | config => exact ⟨rfl, rfl, fun _ => rfl, fun hne => absurd rfl hne, .inl rfl⟩
    | rearm _ hh => exact ⟨rfl, rfl, nofun, fun _ => rfl, .inr (.inl ⟨rfl, hh⟩)⟩
    | drop ht ha =>
      exact ⟨ha, rfl, fun hi => (by subst hi; cases ht), fun _ => rfl, .inr (.inr ⟨ht, ha⟩)⟩
    | _ => simp [fillHeader] at hmem
  · have hreq : recvRequest ∉ t.out := hnone .epOut .RX Config.bufCap
    cases effect_of_exec h with
    | config | rearm | drop => exact absurd List.mem_cons_self hreq
    | _ => rfl

/-- Settles O9: `step` fetches the call's instruction, and `arrive` is the invoker's part of it. -/
theorem stepRunsDecodedCall : Obligations.StepRunsDecodedCall := by
  intro s bs moves i hp hd
  have hf : fetch (.call bs) = .instr i := by simp only [fetch, hd]
  have hstep := step_of_fetch_instr hp hf
  refine ⟨fun n hi => ?_, fun hi => ?_, fun hrecv hsend => ?_⟩
  · subst hi
    exact hstep
  · subst hi
    exact hstep
  · cases i with
    | rxComplete n => exact absurd rfl (hrecv n)
    | sendComplete => exact absurd rfl hsend
    | _ => exact hstep

/-- Settles O12: no byte of a buffer is listed at reset, so each reads as its free value. -/
theorem resetValues : Obligations.ResetValues :=
  ⟨rfl, rfl, rfl, rfl, fun _ => rfl, fun _ => rfl⟩

/-- Settles O13: at reset both buffers are empty, the gate BUSY, and USB carries nothing. -/
theorem resetMeetsInv : Obligations.ResetMeetsInv where
  left :=
    { rxWf := Memory.wf_nil
      txWf := Memory.wf_nil
      gate := nofun
      readyInited := nofun
      rxInited := fun hrx => absurd rfl hrx
      lease := ⟨nofun, fun _ => rfl⟩
      packet := nofun
      armed := nofun
      idle := fun _ => rfl
      draws := Nat.one_pos }
  right :=
    { oneSend := Nat.zero_le 1
      inflight := ⟨nofun, fun hs => absurd rfl hs⟩
      gate := fun _ => rfl
      packet := nofun
      recv := rfl }

end Sys2Proof.Proofs
end

section
namespace Sys2Proof.Machine

/-! ## The two buffers through a step -/

/-- Only an access is fetched as an access. -/
theorem fetch_eq_access {e : Event} {a : Access} (h : fetch e = .access a) : e = .access a := by
  cases e with
  | call bs =>
    simp only [fetch] at h
    split at h <;> cases h
  | transfer bs =>
    simp only [fetch] at h
    split at h <;> cases h
  | unmatched c => cases h
  | access a' => rw [Fetched.access.inj h]

/-- A step whose next move is an access does that access. -/
theorem step_of_access {s : State} {a : Access} {rest : List Event}
    (hp : s.pending = .access a :: rest) : step s = agentAccess a { s with pending := rest } := by
  simp only [step, hp, fetch]

theorem State.txByte_congr {s t : State} (htx : t.tx = s.tx) : SameTx s t := fun off => by
  simp only [State.txByte, htx]

/-- A move that runs an operation leaves `RX` as its invoker left it (R22). -/
theorem sameRx_arrive_of_step {s t : State} {e : Event} {rest : List Event} {i : Instr}
    (hp : s.pending = e :: rest) (hf : fetch e = .instr i) (h : step s = .next t) :
    SameRx (arrive e i { s with pending := rest }) t :=
  (effect_of_exec (step_of_fetch_instr hp hf ▸ h)).sameRx

/-- R52: from the end of a transfer on, what USB hands over is unspecified. -/
theorem State.rxByte_handOver_of_beyond (s : State) {n off : Nat} (h : n ≤ off) :
    (s.handOver n).rxByte off = Config.rxUnspecified s.nextDraw off := by
  rw [State.rxByte_handOver, if_neg (Nat.not_lt.2 h)]

/-- R52, where USB places the bytes itself, however many there are. -/
theorem State.rxByte_deliver_of_beyond (s : State) {bs : List Byte} {off : Nat}
    (h : bs.length ≤ off) : (s.deliver bs).rxByte off = Config.rxUnspecified s.nextDraw off := by
  have hoff : ¬ off < (bs.take Config.bufCap).length := by
    have := bs.length_take_le' Config.bufCap
    omega
  simp only [State.rxByte, State.deliver_rx, State.deliver_rxDraw, Memory.read_writeBytes,
    Nat.zero_add, hoff, and_false, if_false, Memory.read_nil, Option.getD_none]

/-- A transfer that goes through runs an operation on what USB has placed in `RX`. -/
theorem fetch_instr_of_step_transfer {s t : State} {bs : List Byte} {moves : List Event}
    (hp : s.pending = .transfer bs :: moves) (h : step s = .next t) :
    ∃ i, fetch (.transfer bs) = .instr i := by
  rcases step_eq_next h with ⟨hnil, -⟩ | ⟨e, rest, i, he, hf, -⟩ | ⟨e, rest, a, he, hf, -⟩
  · cases hp.symm.trans hnil
  · obtain ⟨rfl, -⟩ := List.cons.inj (hp.symm.trans he)
    exact ⟨i, hf⟩
  · obtain ⟨rfl, -⟩ := List.cons.inj (hp.symm.trans he)
    cases fetch_eq_access hf

/-- An operation that a transfer delivers goes through in RX_ARMED only (R101). -/
theorem Effect.armed_of_needsTransfer {s t : State} {i : Instr} (e : Effect s i t)
    (hn : needsTransfer i = true) : s.rxState = .armed := by
  cases e with
  | drop _ ha => exact ha
  | forward _ _ _ ha => exact ha
  | _ => cases hn

/-- No access of an agent writes `TX`. -/
theorem sameTx_of_agentAccess {s t : State} {a : Access} (h : agentAccess a s = .next t) :
    SameTx s t := by
  rcases agentAccess_eq_next h with ⟨_, _, -, -, -, rfl⟩ | ⟨_, _, -, -, -, rfl⟩ | ⟨_, rfl⟩ | rfl <;>
    exact fun _ => rfl

/-- An access that is no write of USB leaves `RX`. -/
theorem sameRx_of_agentAccess {s t : State} {a : Access} (h : agentAccess a s = .next t)
    (ha : ∀ off b, a ≠ .usbWrite off b) : SameRx s t := by
  rcases agentAccess_eq_next h with ⟨off, b, hw, -⟩ | ⟨off, b, hw, -⟩ | ⟨_, rfl⟩ | rfl
  · exact absurd hw (ha off b)
  · exact absurd hw (ha off b)
  · exact fun _ => rfl
  · exact fun _ => rfl

/-- A byte of `RX` after USB's write while armed: the byte written, or the byte before. -/
theorem State.rxByte_write (s : State) (off : Nat) (b : Byte) (a : Nat) :
    { s with rx := s.rx.write off b }.rxByte a = if a = off then b else s.rxByte a := by
  simp only [State.rxByte, Memory.read_write]
  split <;> rfl

theorem agentAccess_usbWrite_of_armed {s : State} {off : Nat} (b : Byte) (ha : s.rxState = .armed)
    (hoff : off < 1520) :
    agentAccess (.usbWrite off b) s = .next { s with rx := s.rx.write off b } :=
  (if_pos hoff).trans (if_pos ha)

/-- `s` after a read that gives `byte` where the offset is inside the reader's window, and a free value
outside (R174; log 8). -/
def State.readThrough (s : State) (inside : Bool) (byte : Byte) : State :=
  if inside then { s with seen := some byte } else s.strayRead

theorem State.readThrough_eq (s : State) (inside : Bool) (byte : Byte) :
    s.readThrough inside byte =
      { s with
        seen := (s.readThrough inside byte).seen
        nextDraw := (s.readThrough inside byte).nextDraw } := by
  cases inside <;> rfl

theorem State.readThrough_seen (s : State) (inside : Bool) (byte : Byte) :
    (s.readThrough inside byte).seen =
      some (if inside then byte else Config.strayRead s.nextDraw) := by
  cases inside <;> rfl

theorem agentAccess_netRead {off : Nat} (s : State) (hoff : off < 1520) :
    agentAccess (.netRead off) s = .next (s.readThrough (inLease s off) (s.rxByte off)) := by
  simp only [agentAccess, State.readThrough, if_pos (show off < Config.bufCap from hoff)]
  split <;> rfl

theorem agentAccess_usbRead {off : Nat} (s : State) (hoff : off < 1520) :
    agentAccess (.usbRead off) s = .next (s.readThrough (inSend s off) (s.txByte off)) := by
  simp only [agentAccess, State.readThrough, if_pos (show off < Config.bufCap from hoff)]
  split <;> rfl

end Sys2Proof.Machine

namespace Sys2Proof.Proofs

open Sys2Proof Sys2Proof.Machine

/-- Settles O26: the operation leaves `RX` as USB handed it over, in each of the three forms. -/
theorem bytesBeyondTransferAreFree : Obligations.BytesBeyondTransferAreFree := by
  refine fun s t moves off h => ⟨fun bs hp hoff => ?_, fun n bs hp hd hoff => ?_, fun n hp hoff => ?_⟩
  · obtain ⟨i, hf⟩ := fetch_instr_of_step_transfer hp h
    exact (sameRx_arrive_of_step hp hf h off).trans (State.rxByte_deliver_of_beyond _ hoff)
  · have hf : fetch (.call bs) = .instr (.rxComplete n) := by simp only [fetch, hd]
    exact (sameRx_arrive_of_step hp hf h off).trans (State.rxByte_handOver_of_beyond _ hoff)
  · exact (sameRx_arrive_of_step hp rfl h off).trans (State.rxByte_handOver_of_beyond _ hoff)

/-- Settles O46: a FRAME_OUT is the effect of a forwarded transfer and a SEND_REQ that of a sent packet,
whose sizes are bounded; no other effect has one among its outputs. -/
theorem extentsInsideBuffers : Obligations.ExtentsInsideBuffers := by
  refine fun i s t h => ⟨fun off len hmem => ?_, fun ep buf len hmem => ?_⟩
  · cases effect_of_exec h with
    | forward =>
      obtain ⟨rfl, rfl⟩ := by simpa using hmem
      omega
    | _ => simp [rxDrop, recvRequest, fillHeader] at hmem
  · cases effect_of_exec h with
    | frameSent =>
      obtain ⟨-, -, rfl⟩ := by simpa using hmem
      omega
    | _ => simp [rxDrop, recvRequest, fillHeader] at hmem

/-- Settles O48: no invoker and no access touches `TX`, and with the gate BUSY no operation writes it. -/
theorem txStableWhileBusy : Obligations.TxStableWhileBusy := by
  intro s t hbusy h
  rcases step_eq_next h with ⟨-, rfl⟩ | ⟨e, rest, i, -, hf, hx⟩ | ⟨e, rest, a, -, -, hx⟩
  · exact fun _ => rfl
  · obtain ⟨-, hready, -, -, htx, -, -⟩ := arrive_unchanged hf { s with pending := rest }
    have hop := (effect_of_exec hx).sameTx_of_busy (hready.trans hbusy)
    exact fun off => (hop off).trans (State.txByte_congr htx off)
  · exact fun off => sameTx_of_agentAccess hx off

/-- Settles O49: outside RX_ARMED a receive completion is refused, and no other operation's invoker
touches `RX`. -/
theorem rxStableWhileHeld : Obligations.RxStableWhileHeld := by
  intro s t hheld hnowrite h
  rcases step_eq_next h with ⟨-, rfl⟩ | ⟨e, rest, i, -, hf, hx⟩ | ⟨e, rest, a, hp, hf, hx⟩
  · exact fun _ => rfl
  · have effect := effect_of_exec hx
    rcases arrive_cases hf { s with pending := rest } with ⟨-, -, harr⟩ | ⟨-, -, harr⟩ | ⟨hn, -⟩
    · rw [harr] at effect
      exact effect.sameRx
    · rw [harr] at effect
      exact effect.sameRx
    · obtain ⟨-, -, hrx, -⟩ := arrive_unchanged hf { s with pending := rest }
      cases (hrx.trans hheld).symm.trans (effect.armed_of_needsTransfer hn)
  · rw [fetch_eq_access hf] at hp
    have hread : ∀ off b, a ≠ .usbWrite off b := fun off b ha => hnowrite off b rest (ha ▸ hp)
    exact fun off => sameRx_of_agentAccess hx hread off

/-- Settles O50, by the access's equation and what a byte of `RX` reads after a write. -/
theorem usbWriteStoresByte : Obligations.UsbWriteStoresByte := by
  intro s off b moves ha hoff hp
  have hbyte := State.rxByte_write { s with pending := moves } off b
  refine ⟨_, (step_of_access hp).trans (agentAccess_usbWrite_of_armed b ha hoff), rfl, ?_, ?_⟩
  · rw [hbyte, if_pos rfl]
  · exact fun a hne => (hbyte a).trans (if_neg hne)

/-- Settles O51, by the two readers' equations: each reads through its own window. -/
theorem readsThroughWindows : Obligations.ReadsThroughWindows := by
  refine fun s off moves hoff => ⟨fun hp => ?_, fun hp => ?_⟩
  · exact ⟨_, (step_of_access hp).trans (agentAccess_netRead _ hoff), State.readThrough_eq _ _ _,
      State.readThrough_seen _ _ _⟩
  · exact ⟨_, (step_of_access hp).trans (agentAccess_usbRead _ hoff), State.readThrough_eq _ _ _,
      State.readThrough_seen _ _ _⟩

end Sys2Proof.Proofs
end

section
namespace Sys2Proof

/-! ## A received header's class (spec/30_encoding.md R60, R65, R76)

The rows' masks fix the two flag bits and nothing else, so a masked header is its flags alone. -/

theorem getLsbD_flagBit (b : Bool) (j : Nat) : (flagBit b).getLsbD j = (decide (j = 0) && b) := by
  cases b <;> simp [flagBit]

theorem and_dataMask_eq_flags (h : Half) :
    h &&& 0xC000#16 =
      (flagBit (hdrDecode h).bmCRC <<< 14) ||| (flagBit (hdrDecode h).bmType <<< 15) := by
  apply BitVec.eq_of_getLsbD_eq
  intro j hj
  simp only [BitVec.getLsbD_and, BitVec.getLsbD_or, BitVec.getLsbD_shiftLeft, getLsbD_flagBit,
    hdrDecode]
  interval_cases j <;> simp

theorem and_controlMask_eq_flag (h : Half) :
    h &&& 0x8000#16 = flagBit (hdrDecode h).bmType <<< 15 := by
  apply BitVec.eq_of_getLsbD_eq
  intro j hj
  simp only [BitVec.getLsbD_and, BitVec.getLsbD_shiftLeft, getLsbD_flagBit, hdrDecode]
  interval_cases j <;> simp

theorem matches_eemDataSentinel_iff (h : Half) :
    h &&& 0xC000#16 = 0x0000#16 ↔ (hdrDecode h).bmType = false ∧ (hdrDecode h).bmCRC = false := by
  rw [and_dataMask_eq_flags]
  cases (hdrDecode h).bmCRC <;> cases (hdrDecode h).bmType <;> decide

theorem matches_eemDataCrc_iff (h : Half) :
    h &&& 0xC000#16 = 0x4000#16 ↔ (hdrDecode h).bmType = false ∧ (hdrDecode h).bmCRC = true := by
  rw [and_dataMask_eq_flags]
  cases (hdrDecode h).bmCRC <;> cases (hdrDecode h).bmType <;> decide

theorem matches_eemControl_iff (h : Half) :
    h &&& 0x8000#16 = 0x8000#16 ↔ (hdrDecode h).bmType = true := by
  rw [and_controlMask_eq_flag]
  cases (hdrDecode h).bmType <;> decide

theorem classOf_of_sentinel {h : Half} (ht : (hdrDecode h).bmType = false)
    (hc : (hdrDecode h).bmCRC = false) (n : Nat) :
    classOf h n = .eemDataSentinel (hdrDecode h).length n := by
  simp [classOf, ht, hc]

theorem classOf_of_crc {h : Half} (ht : (hdrDecode h).bmType = false)
    (hc : (hdrDecode h).bmCRC = true) (n : Nat) :
    classOf h n = .eemDataCrc (hdrDecode h).length n := by
  simp [classOf, ht, hc]

theorem classOf_of_control {h : Half} (ht : (hdrDecode h).bmType = true) (n : Nat) :
    classOf h n = .eemControl (h.setWidth 15) n := if_pos ht

theorem port_classOf (h : Half) (n : Nat) : (classOf h n).port = .received n := by
  unfold classOf
  split
  · rfl
  · split <;> rfl

theorem wellFormed_classOf {n : Nat} (hn : Config.hdrSize ≤ n) (h : Half) :
    (classOf h n).WellFormed := by
  unfold classOf
  split
  · exact decide_eq_true hn
  · split <;> exact decide_eq_true hn

/-! ## The decoder at each port -/

theorem decode_received {n : Nat} (hn : Config.hdrSize ≤ n) (b0 b1 : Byte) :
    decode (.received n) [b0, b1] = .ok (classOf (hdrFromBytes b0 b1) n) :=
  if_neg (Nat.not_lt.2 hn)

theorem decode_received_hdrBytes {n : Nat} (hn : Config.hdrSize ≤ n) (h : Half) :
    decode (.received n) (hdrBytes h) = .ok (classOf h n) := by
  rw [hdrBytes, decode_received hn, hdrFromBytes_hdrBytes]

/-- The receive port accepts two bytes of a transfer that has room for them (R102). -/
theorem decode_received_eq_ok {n : Nat} {bs : List Byte} {i : Instr}
    (h : decode (.received n) bs = .ok i) : Config.hdrSize ≤ n ∧ ∃ hd, i = classOf hd n := by
  simp only [decode, decodeReceived] at h
  split at h
  · split at h
    · cases h
    · exact ⟨Nat.not_lt.1 ‹_›, _, (Except.ok.inj h).symm⟩
  · cases h

theorem wellFormed_eemTxHeader_iff {length : BitVec 14} :
    (Instr.eemTxHeader length).WellFormed ↔
      Config.trailerSize ≤ length.toNat ∧ length.toNat ≤ Config.mss + Config.trailerSize := by
  simp [Instr.WellFormed, Instr.wellFormed]

/-- The transmit buffer's port accepts a header in the range of R68 only. -/
theorem decode_produced_eq_ok {bs : List Byte} {i : Instr} (h : decode .produced bs = .ok i) :
    ∃ length, i = .eemTxHeader length ∧ (Instr.eemTxHeader length).WellFormed := by
  simp only [decode, decodeProduced] at h
  split at h
  · split at h
    · rename_i hform
      obtain ⟨-, -, hrange⟩ := hform
      exact ⟨_, (Except.ok.inj h).symm, wellFormed_eemTxHeader_iff.2 hrange⟩
    · cases h
  · cases h

/-- The operations take any argument, so none is ill-formed (R101). -/
theorem wellFormed_of_port_call {i : Instr} (h : i.port = .call) : i.WellFormed := by
  cases i with
  | eemDataSentinel | eemDataCrc | eemControl | eemTxHeader => cases h
  | _ => rfl

theorem decodeCall_of_reserved {b : Byte} (h : b.toNat % 8 = 7) (rest : List Byte) :
    decodeCall (b :: rest) = .error .reservedOp := by
  simp only [decodeCall, h]

/-! ## The decoder on what the encoder gives -/

theorem readNat_natBytes_whole (n : Nat) : readNat (natBytes n) = some (n, []) := by
  simpa using readNat_natBytes n []

theorem readChain_chainBytes_whole (chain : List Segment) :
    readChain (chainBytes chain) = some (chain, []) := by
  simpa using readChain_chainBytes chain []

theorem decode_encode_rxComplete (n : Nat) :
    decode .call (encode (.rxComplete n)) = .ok (.rxComplete n) := by
  simp [decode, encode, decodeCall, readNat_natBytes_whole, wholeRecord]

theorem decode_encode_xmitPacket (chain : List Segment) :
    decode .call (encode (.xmitPacket chain)) = .ok (.xmitPacket chain) := by
  simp [decode, encode, decodeCall, readChain_chainBytes_whole, wholeRecord]

/-- A length of the header's own 14 bits comes back whole. -/
theorem hdrDecode_hdrEncode_toNat (length : BitVec 14) (c t : Bool) :
    (hdrDecode (hdrEncode length.toNat c t)).length = length := by
  rw [hdrDecode_hdrEncode_length, BitVec.ofNat_toNat, BitVec.setWidth_eq]

theorem decode_encode_eemDataSentinel {n : Nat} (hn : Config.hdrSize ≤ n) (length : BitVec 14) :
    decode (.received n) (encode (.eemDataSentinel length n)) = .ok (.eemDataSentinel length n) := by
  rw [encode, decode_received_hdrBytes hn, classOf_of_sentinel (hdrDecode_hdrEncode_bmType _ _ _)
    (hdrDecode_hdrEncode_bmCRC _ _ _), hdrDecode_hdrEncode_toNat]

theorem decode_encode_eemDataCrc {n : Nat} (hn : Config.hdrSize ≤ n) (length : BitVec 14) :
    decode (.received n) (encode (.eemDataCrc length n)) = .ok (.eemDataCrc length n) := by
  rw [encode, decode_received_hdrBytes hn, classOf_of_crc (hdrDecode_hdrEncode_bmType _ _ _)
    (hdrDecode_hdrEncode_bmCRC _ _ _), hdrDecode_hdrEncode_toNat]

/-- Bit 15 marks a control header; the 15 bits under it are the operand (R63). -/
theorem decode_encode_eemControl {n : Nat} (hn : Config.hdrSize ≤ n) (low15 : BitVec 15) :
    decode (.received n) (encode (.eemControl low15 n)) = .ok (.eemControl low15 n) := by
  have htype : (hdrDecode (low15.setWidth 16 ||| 0x8000#16)).bmType = true := by simp [hdrDecode]
  have hlow : (low15.setWidth 16 ||| 0x8000#16).setWidth 15 = low15 := by
    rw [BitVec.setWidth_or, BitVec.setWidth_setWidth_of_le low15 (by decide), BitVec.setWidth_eq]
    exact BitVec.or_zero
  rw [encode, decode_received_hdrBytes hn, classOf_of_control htype, hlow]

theorem decode_encode_eemTxHeader {length : BitVec 14} (hw : (Instr.eemTxHeader length).WellFormed) :
    decode .produced (encode (.eemTxHeader length)) = .ok (.eemTxHeader length) := by
  obtain ⟨shortest, longest⟩ := wellFormed_eemTxHeader_iff.1 hw
  simp [decode, encode, decodeProduced, hdrBytes, hdrFromBytes_hdrBytes, hdrDecode_hdrEncode_bmType,
    hdrDecode_hdrEncode_bmCRC, hdrDecode_hdrEncode_toNat, shortest, longest]

/-! ## The header the block produces (R68) -/

/-- With both flags clear the header is the length itself, where the field holds it. -/
theorem toNat_hdrEncode_noFlags {length : Nat} (h : length < 16384) :
    (hdrEncode length false false).toNat = length := by
  have hword : hdrEncode length false false = BitVec.ofNat 16 length &&& 0x3FFF#16 := by
    simp [hdrEncode, flagBit]
  have hmask : length &&& 16383 = length := by
    rw [Nat.and_two_pow_sub_one_eq_mod length 14, Nat.mod_eq_of_lt h]
  rw [hword, BitVec.toNat_and, BitVec.toNat_ofNat, Nat.mod_eq_of_lt (by omega)]
  exact hmask

end Sys2Proof

namespace Sys2Proof.Machine

/-- A move whose bytes are no instruction is refused, with the decoder's reason. -/
theorem step_of_fetch_bad {s : State} {e : Event} {rest : List Event} {err : DecodeError}
    (hp : s.pending = e :: rest) (hf : fetch e = .bad err) :
    step s = .refused (.undecodable err) := by
  simp only [step, hp, hf]

/-- XMIT_SENT is the answer of the one outcome that sends (R131). -/
theorem eq_xmitSend_of_sent {s t : State} {chain : List Segment}
    (h : exec (.xmitPacket chain) s = .next t) (hsent : t.result = some (.xmit .sent)) :
    ∃ k total, chainTotal chain = .total k total ∧ total ≤ 1514 ∧
      t = xmitSend chain k total s.enter := by
  rcases exec_eq_next h with ⟨⟨⟩, -⟩ | ⟨-, ⟨⟨⟩, -⟩ | ⟨⟨⟩, -⟩ | ⟨⟨⟩, -⟩ | ⟨⟨⟩, -⟩ | ⟨⟨⟩, -⟩ | ⟨⟨⟩, -⟩ |
    ⟨⟨⟩, -⟩ | ⟨_, ⟨⟩, hx⟩ | ⟨_, ⟨⟩, -⟩⟩
  rcases hx with ⟨-, rfl⟩ | ⟨-, -, rfl⟩ | ⟨_, _, -, -, -, rfl⟩ | ⟨k, total, -, walk, fits, rfl⟩
  · cases hsent
  · cases hsent
  · cases hsent
  · exact ⟨k, total, walk, fits, rfl⟩

theorem xmitSend_out (chain : List Segment) (k total : Nat) (s : State) :
    (xmitSend chain k total s).out = s.out ++ [.sendReq .epIn .TX (2 + (total + 4))] := by
  rw [xmitSend_eq]
  rfl

/-- The header of a class packet in `TX` has the packet's length less the header's two bytes, with both
flags clear (R68). -/
theorem PacketInTx.header_eq {s : State} {length : Nat} (h : PacketInTx s (2 + length)) :
    hdrFromBytes (s.txByte 0) (s.txByte 1) = hdrEncode length false false := by
  rw [h.header, Config.hdrSize, Nat.add_sub_cancel_left]

end Sys2Proof.Machine

namespace Sys2Proof.Proofs

open Sys2Proof Sys2Proof.Machine

/-- Settles O5, by each instruction's own round trip. -/
theorem decodeOfEncode : Obligations.DecodeOfEncode := by
  intro i hw
  cases i with
  | rxComplete n => exact decode_encode_rxComplete n
  | xmitPacket chain => exact decode_encode_xmitPacket chain
  | eemDataSentinel length n => exact decode_encode_eemDataSentinel (of_decide_eq_true hw) length
  | eemDataCrc length n => exact decode_encode_eemDataCrc (of_decide_eq_true hw) length
  | eemControl low15 n => exact decode_encode_eemControl (of_decide_eq_true hw) low15
  | eemTxHeader length => exact decode_encode_eemTxHeader hw
  | _ => rfl

/-- Settles O6, port by port. -/
theorem decodedIsWellFormed : Obligations.DecodedIsWellFormed := by
  intro p bs i h
  cases p with
  | call =>
    have hport := port_of_decodeCall h
    exact ⟨wellFormed_of_port_call hport, hport⟩
  | received n =>
    obtain ⟨hn, hd, rfl⟩ := decode_received_eq_ok h
    exact ⟨wellFormed_classOf hn hd, port_classOf hd n⟩
  | produced =>
    obtain ⟨length, rfl, hw⟩ := decode_produced_eq_ok h
    exact ⟨hw, rfl⟩

/-- Settles O7: a row's match says what the flags are, and they pick the class. -/
theorem receivedClassByMask : Obligations.ReceivedClassByMask := by
  intro b0 b1 n hn h
  have hd : decode (.received n) [b0, b1] = .ok (classOf h n) := decode_received hn b0 b1
  rw [hd, matches_eemDataSentinel_iff, matches_eemDataCrc_iff, matches_eemControl_iff]
  refine ⟨fun ⟨ht, hc⟩ => ?_, fun ⟨ht, hc⟩ => ?_, fun ht => ?_, ?_⟩
  · rw [classOf_of_sentinel ht hc]
    rfl
  · rw [classOf_of_crc ht hc]
    rfl
  · rw [classOf_of_control ht]
  · cases (hdrDecode h).bmType <;> cases (hdrDecode h).bmCRC <;> decide

/-- Settles O36: the header of the class packet that XMIT_PACKET leaves in `TX` is `L + 4`, with `L` at
most 1514. -/
theorem producedHeaderRange : Obligations.ProducedHeaderRange := by
  intro s t chain h hsent
  obtain ⟨k, total, walk, fits, rfl⟩ := eq_xmitSend_of_sent h hsent
  have hheader := (packetInTx_xmitSend s.enter walk fits).header_eq
  have hout := xmitSend_out chain k total s.enter
  have hval := toNat_hdrEncode_noFlags (length := total + 4) (by omega)
  have htype := hdrDecode_hdrEncode_bmType (total + 4) false false
  have hcrc := hdrDecode_hdrEncode_bmCRC (total + 4) false false
  dsimp only
  rw [hheader, hval]
  exact ⟨htype, hcrc, (matches_eemDataSentinel_iff _).2 ⟨htype, hcrc⟩, by omega, by omega, hout,
    by omega, by omega⟩

/-- Settles O1, by evaluating the decoder on each word. -/
theorem tableWordsDecode : Obligations.TableWordsDecode :=
  ⟨rfl, rfl, rfl, rfl, rfl, rfl, rfl, rfl, rfl, rfl, rfl⟩

/-- Settles O8, by the decoder's answer on operation code 7. -/
theorem reservedCodeRefused : Obligations.ReservedCodeRefused := by
  intro s b rest moves hb hp
  have hd : decode .call (b :: rest) = .error .reservedOp := decodeCall_of_reserved hb rest
  exact step_of_fetch_bad hp (by simp only [fetch, hd])

end Sys2Proof.Proofs
end

section
namespace Sys2Proof

/-! ## The header in arithmetic (spec/40_header_codec.md R80 to R82)

The three fields of a header tile its 16 bits, and so do its two bytes: each is its parts appended, and
what is appended adds up. -/

theorem toNat_append_eq_add {m n : Nat} (x : BitVec m) (y : BitVec n) :
    (x ++ y).toNat = x.toNat * 2 ^ n + y.toNat := by
  rw [BitVec.toNat_append, ← Nat.shiftLeft_add_eq_or_of_lt y.isLt, Nat.shiftLeft_eq]

theorem hdrEncode_eq_append (length : Nat) (c t : Bool) :
    hdrEncode length c t = BitVec.ofBool t ++ (BitVec.ofBool c ++ BitVec.ofNat 14 length) := by
  apply BitVec.eq_of_getLsbD_eq
  intro j hj
  have hmask : (0x3FFF#16).getLsbD j = decide (j < 14) := by interval_cases j <;> rfl
  simp only [hdrEncode, BitVec.getLsbD_or, BitVec.getLsbD_and, hmask, BitVec.getLsbD_shiftLeft,
    getLsbD_flagBit, BitVec.getLsbD_append, BitVec.getLsbD_ofNat, BitVec.getLsbD_ofBool]
  interval_cases j <;> simp

theorem hdrFromBytes_eq_append (b0 b1 : Byte) : hdrFromBytes b0 b1 = b1 ++ b0 := by
  apply BitVec.eq_of_getLsbD_eq
  intro j hj
  simp only [hdrFromBytes, BitVec.getLsbD_or, BitVec.getLsbD_setWidth, BitVec.getLsbD_shiftLeft,
    BitVec.getLsbD_append]
  interval_cases j <;> simp

theorem toNat_hdrEncode (length : Nat) (c t : Bool) :
    (hdrEncode length c t).toNat =
      length % 16384 + (if c then 16384 else 0) + (if t then 32768 else 0) := by
  rw [hdrEncode_eq_append, toNat_append_eq_add, toNat_append_eq_add, BitVec.toNat_ofNat]
  cases c <;> cases t <;> simp <;> omega

theorem toNat_hdrFromBytes (b0 b1 : Byte) :
    (hdrFromBytes b0 b1).toNat = b0.toNat + 256 * b1.toNat := by
  rw [hdrFromBytes_eq_append, toNat_append_eq_add]
  omega

theorem map_toNat_hdrBytes (h : Half) :
    (hdrBytes h).map BitVec.toNat = [h.toNat % 256, h.toNat / 256] := by
  have hhigh : (h >>> 8).toNat = h.toNat / 256 := by
    rw [BitVec.toNat_ushiftRight, Nat.shiftRight_eq_div_pow]
  simp only [hdrBytes, List.map_cons, List.map_nil, BitVec.toNat_setWidth, hhigh]
  rw [Nat.mod_eq_of_lt (show h.toNat / 256 < 2 ^ 8 by omega)]

theorem hdrDecode_length_toNat (h : Half) : (hdrDecode h).length.toNat = h.toNat % 16384 :=
  BitVec.toNat_setWidth 14 h

theorem hdrDecode_bmCRC (h : Half) : (hdrDecode h).bmCRC = decide (h.toNat / 16384 % 2 = 1) :=
  Nat.testBit_eq_decide_div_mod_eq

theorem hdrDecode_bmType (h : Half) : (hdrDecode h).bmType = decide (h.toNat / 32768 % 2 = 1) :=
  Nat.testBit_eq_decide_div_mod_eq

theorem hdrEncode_hdrDecode (h : Half) :
    hdrEncode (hdrDecode h).length.toNat (hdrDecode h).bmCRC (hdrDecode h).bmType = h := by
  apply BitVec.eq_of_toNat_eq
  rw [toNat_hdrEncode, hdrDecode_length_toNat, hdrDecode_bmCRC, hdrDecode_bmType]
  simp only [decide_eq_true_eq]
  split <;> split <;> omega

theorem hdrBytes_hdrFromBytes (b0 b1 : Byte) : hdrBytes (hdrFromBytes b0 b1) = [b0, b1] := by
  apply List.map_injective_iff.2 (fun _ _ => BitVec.eq_of_toNat_eq)
  have hlow : (b0.toNat + 256 * b1.toNat) % 256 = b0.toNat := by omega
  have hhigh : (b0.toNat + 256 * b1.toNat) / 256 = b1.toNat := by omega
  rw [map_toNat_hdrBytes, toNat_hdrFromBytes, hlow, hhigh]
  rfl

theorem hdrDecode_hdrEncode_length_toNat {length : Nat} (h : length < 16384) (c t : Bool) :
    (hdrDecode (hdrEncode length c t)).length.toNat = length := by
  rw [hdrDecode_hdrEncode_length, BitVec.toNat_ofNat, Nat.mod_eq_of_lt h]

end Sys2Proof

namespace Sys2Proof.Machine

/-! ## A data packet that arrives whole (R101, R104) -/

/-- RX_COMPLETE forwards a data packet whose declared length the transfer holds. -/
theorem execRxComplete_of_wholeData {n : Nat} {s : State} (hi : s.inited = true)
    (ha : s.rxState = .armed) (hdata : (hdrDecode s.rxHeader).bmType = false)
    (shortest : Config.hdrSize + Config.trailerSize ≤ n) (longest : n ≤ Config.bufCap)
    (whole : Config.hdrSize + (hdrDecode s.rxHeader).length.toNat ≤ n) :
    execRxComplete n s = .next (rxForward n s.enter) := by
  have hheader : s.enter.rxHeader = s.rxHeader := rfl
  rw [execRxComplete, rxTransfer_of_armed hi ha longest,
    if_neg (show ¬ n < Config.hdrSize by omega)]
  simp only [hheader, hdata, rxData]
  rw [if_neg Bool.false_ne_true, if_neg (Nat.not_lt.2 shortest), if_neg (Nat.not_lt.2 whole)]

/-- In a class packet the payload stands right after the header (R41). -/
theorem packetBytes_getElem?_payload {payload : List Byte} {j : Nat} (hj : j < payload.length) :
    (packetBytes payload)[2 + j]? = payload[j]? := by
  have hheader : ∀ h : Half, (hdrBytes h).length = 2 := fun _ => rfl
  rw [packetBytes, List.append_assoc, List.getElem?_append_right (Nat.le_add_right 2 j), hheader,
    Nat.add_sub_cancel_left, List.getElem?_append_left hj]

/-- XMIT_PACKET leaves the chain's payload in `TX` right after the header (R124). -/
theorem xmitSend_txByte_payload {chain : List Segment} {k total j : Nat} (s : State)
    (h : chainTotal chain = .total k total) (hj : j < total) :
    some ((xmitSend chain k total s).txByte (2 + j)) = (chainPayload chain k)[j]? := by
  have hpayload : j < (chainPayload chain k).length := (chainTotal_eq_total h).symm ▸ hj
  rw [xmitSend_txByte s h, packetBytes_getElem?_payload hpayload, List.getElem?_eq_getElem hpayload]
  rfl

end Sys2Proof.Machine

namespace Sys2Proof.Proofs

open Sys2Proof Sys2Proof.Machine

/-- Settles O37: the header sent declares exactly the bytes that follow it, so the receiver forwards the
packet, and the payload stands right after the header. -/
theorem xmitThenReceive : Obligations.XmitThenReceive := by
  intro s t chain k total m r walk h hsent hout hi ha hbytes
  obtain ⟨k', total', walk', fits, rfl⟩ := eq_xmitSend_of_sent h hsent
  obtain ⟨rfl, rfl⟩ := Walk.total.inj (walk.symm.trans walk')
  obtain rfl : 2 + (total + 4) = m := by
    rw [xmitSend_out] at hout
    simpa using hout
  have packet := packetInTx_xmitSend s.enter walk fits
  have hheader : r.rxHeader = hdrEncode (total + 4) false false := by
    rw [State.rxHeader, hbytes 0 (by omega), hbytes 1 (by omega), packet.header_eq]
  have hlength : (hdrDecode r.rxHeader).length.toNat = total + 4 := by
    rw [hheader, hdrDecode_hdrEncode_length_toNat (by omega)]
  have htype : (hdrDecode r.rxHeader).bmType = false := by
    rw [hheader, hdrDecode_hdrEncode_bmType]
  have hforward : exec (.rxComplete (2 + (total + 4))) r = .next (rxForward _ r.enter) :=
    execRxComplete_of_wholeData hi ha htype packet.shortest packet.longest (hlength ▸ Nat.le_refl _)
  have hframe : 2 + (total + 4) - Config.hdrSize - Config.trailerSize = total := by
    simp only [Config.hdrSize, Config.trailerSize]
    omega
  refine ⟨_, hforward, rfl, ?_, chainTotal_eq_total walk, fun j hj => ?_⟩
  · rw [rxForward_eq, hframe]
    rfl
  · have hbyte := xmitSend_txByte_payload s.enter walk hj
    rw [← hbytes (2 + j) (by omega)] at hbyte
    exact hbyte

/-- Settles O2, by the fields and the bytes appended. -/
theorem headerEncodeValue : Obligations.HeaderEncodeValue :=
  ⟨toNat_hdrEncode, map_toNat_hdrBytes⟩

/-- Settles O3, by the same arithmetic; its corner cases and its example evaluate. -/
theorem headerDecodeFields : Obligations.HeaderDecodeFields :=
  ⟨toNat_hdrFromBytes,
    fun h => ⟨hdrDecode_length_toNat h, hdrDecode_bmCRC h, hdrDecode_bmType h⟩,
    rfl, rfl, rfl, rfl, rfl, rfl⟩

/-- Settles O4: the parts of a header add up to it, and each comes back out of the sum. -/
theorem headerRoundTrip : Obligations.HeaderRoundTrip :=
  ⟨hdrEncode_hdrDecode,
    fun length c t h => ⟨hdrDecode_hdrEncode_length_toNat h c t,
      hdrDecode_hdrEncode_bmCRC length c t, hdrDecode_hdrEncode_bmType length c t⟩,
    hdrBytes_hdrFromBytes⟩

end Sys2Proof.Proofs
end

section
namespace Sys2Proof.Machine

/-! ## Link control (spec/41_link_control.md R90 to R93) -/

/-- R93: no operation brings the link down. -/
theorem Effect.rxState_ne_idle {s t : State} {i : Instr} (e : Effect s i t)
    (hup : s.rxState ≠ .idle) : t.rxState ≠ .idle := by
  cases e with
  | config | rearm | forward => exact nofun
  | _ => exact hup

/-- RX_ARM leaves RX_HELD and a received packet RX_ARMED, so CONFIG alone brings the link up. -/
theorem Effect.rxState_eq_idle {s t : State} {i : Instr} (e : Effect s i t)
    (hi : i ≠ .config) (hdown : s.rxState = .idle) : t.rxState = .idle := by
  cases e with
  | config => exact absurd rfl hi
  | rearm _ hheld => cases hdown.symm.trans hheld
  | forward _ _ _ harmed => cases hdown.symm.trans harmed
  | _ => exact hdown

theorem Effect.inited_eq_true {s t : State} {i : Instr} (e : Effect s i t)
    (hinited : s.inited = true) : t.inited = true := by
  cases e with
  | init => rfl
  | _ => exact hinited

/-- An agent's access leaves the link as it is. -/
theorem agentAccess_link {s t : State} {a : Access} (h : agentAccess a s = .next t) :
    t.rxState = s.rxState ∧ t.inited = s.inited := by
  rcases agentAccess_eq_next h with ⟨_, _, -, -, -, rfl⟩ | ⟨_, _, -, -, -, rfl⟩ | ⟨_, rfl⟩ | rfl <;>
    exact ⟨rfl, rfl⟩

/-- CONFIG comes by a call only: it is no completion and no packet. -/
theorem call_of_fetch_config {e : Event} (h : fetch e = .instr .config) :
    ∃ bs, e = .call bs ∧ decode .call bs = .ok .config := by
  rcases fetch_eq_instr h with hcall | ⟨bs, -, htransfer⟩ | ⟨c, -, hc⟩
  · exact hcall
  · cases htransfer
  · cases c <;> cases hc

/-- `require inited` is the first of a completed transfer's three, whatever its branch (R101). -/
theorem rxTransfer_of_not_inited {n : Nat} {s : State} (h : s.inited = false)
    (body : State → State) : rxTransfer n body s = .refused .notInited := by
  rw [rxTransfer, requireTransfer, requireInited_of_not h]

theorem exec_of_not_inited {i : Instr} {s : State} (h : s.inited = false) (hi : i ≠ .init) :
    exec i s = .refused .notInited := by
  cases i with
  | init => exact absurd rfl hi
  | rxComplete | eemDataSentinel | eemDataCrc | eemControl =>
    simp only [exec]
    exact rxTransfer_of_not_inited h _
  | _ =>
    simp only [exec]
    exact requireInited_of_not h _

theorem exec_config_of_inited {s : State} (h : s.inited = true) :
    exec .config s = .next ((s.enter.invalidate.emit recvRequest).setRx .armed).openGate := by
  simp only [exec, execConfig, requireInited_of_inited h]

end Sys2Proof.Machine

namespace Sys2Proof.Proofs

open Sys2Proof Sys2Proof.Machine

/-- Settles O45: neither an invoker nor an access touches the link, so it changes as the operation says;
and CONFIG comes by a call. -/
theorem linkComesUpByConfigOnly : Obligations.LinkComesUpByConfigOnly := by
  intro s t h
  rcases step_eq_next h with ⟨-, rfl⟩ | ⟨e, rest, i, hp, hf, hx⟩ | ⟨e, rest, a, -, -, hx⟩
  · exact ⟨id, .inl, id⟩
  · have effect := effect_of_exec hx
    obtain ⟨hinited, -, hrx, -⟩ := arrive_unchanged hf { s with pending := rest }
    refine ⟨fun hup => effect.rxState_ne_idle (hrx.trans_ne hup), fun hdown => ?_,
      fun hs => effect.inited_eq_true (hinited.trans hs)⟩
    by_cases hi : i = .config
    · subst hi
      obtain ⟨bs, rfl, hd⟩ := call_of_fetch_config hf
      exact .inr ⟨bs, rest, hp, hd⟩
    · exact .inl (effect.rxState_eq_idle hi (hrx.trans hdown))
  · obtain ⟨hrx, hinited⟩ := agentAccess_link hx
    exact ⟨fun hup => hrx.trans_ne hup, fun hdown => .inl (hrx.trans hdown), fun hs => hinited.trans hs⟩

/-- Settles O15: INIT has no precondition, so it runs alike on every state. -/
theorem initEffect : Obligations.InitEffect := fun _ => rfl

/-- Settles O16: every other operation begins with `require inited`. -/
theorem beforeInitAllRefused : Obligations.BeforeInitAllRefused :=
  fun _ _ h hi => exec_of_not_inited h hi

/-- Settles O17: what CONFIG leaves does not depend on what it overwrites, so a second CONFIG leaves the
same. -/
theorem configEffect : Obligations.ConfigEffect := by
  refine ⟨rfl, fun s => ⟨fun h => ?_, fun h => exec_of_not_inited h nofun⟩⟩
  have hfirst := exec_config_of_inited h
  have hsecond := exec_config_of_inited
    (s := ((s.enter.invalidate.emit recvRequest).setRx .armed).openGate) h
  exact ⟨_, hfirst, hsecond, rfl⟩

end Sys2Proof.Proofs
end

section
namespace Sys2Proof.Machine

/-! ## The receive operations, branch by branch (spec/42_receive.md R100 to R107) -/

theorem exec_rxArm_of_held {s : State} (hi : s.inited = true) (hh : s.rxState = .held) :
    exec .rxArm s = .next (((s.enter.emit recvRequest).setRx .armed).finish (.arm .done)) := by
  simp only [exec, execRxArm, requireInited_of_inited hi, if_pos hh]

theorem exec_rxArm_of_not_held {s : State} (hi : s.inited = true) (hh : s.rxState ≠ .held) :
    exec .rxArm s = .next (s.enter.finish (.arm .ignored)) := by
  simp only [exec, execRxArm, requireInited_of_inited hi, if_neg hh]

/-- A forwarded frame is the transfer less its header and trailer (R104). -/
theorem rxForward_enter (n : Nat) (s : State) :
    rxForward n s.enter =
      { s with
        rxState := .held
        out := [.frameOut 2 (n - 6)]
        lease := some (2, n - 6)
        result := some (.rx .forwarded) } := by
  rw [rxForward_eq, Nat.sub_sub]
  rfl

/-- A transfer with a header that meets the `require`s goes to its branch. -/
theorem rxTransfer_of_header {n : Nat} {s : State} (hi : s.inited = true) (ha : s.rxState = .armed)
    (shortest : Config.hdrSize ≤ n) (longest : n ≤ Config.bufCap) (body : State → State) :
    rxTransfer n body s = .next (body s.enter) := by
  rw [rxTransfer_of_armed hi ha longest, if_neg (Nat.not_lt.2 shortest)]

/-- What RX_COMPLETE does with a header: the control path or the data path, by its bit 15 (R101). -/
def rxDemux (n : Nat) (s : State) : State :=
  if (hdrDecode s.rxHeader).bmType then rxControl s
  else rxData (hdrDecode s.rxHeader).length.toNat n s

theorem exec_rxComplete_eq_rxTransfer (n : Nat) (s : State) :
    exec (.rxComplete n) s = rxTransfer n (rxDemux n) s := rfl

/-- RX_COMPLETE on a data header takes the data path, with any transfer. -/
theorem exec_rxComplete_of_data {s : State} (hdata : (hdrDecode s.rxHeader).bmType = false) (n : Nat) :
    exec (.rxComplete n) s = rxTransfer n (rxData (hdrDecode s.rxHeader).length.toNat n) s :=
  rxTransfer_congr (b1 := rxDemux n) fun _ => if_neg (ne_true_of_eq_false hdata)

/-- RX_COMPLETE on a control header takes the control path, with any transfer. -/
theorem exec_rxComplete_of_control {s : State} (hcontrol : (hdrDecode s.rxHeader).bmType = true)
    (n : Nat) : exec (.rxComplete n) s = rxTransfer n rxControl s :=
  rxTransfer_congr (b1 := rxDemux n) fun _ => if_pos hcontrol

/-- The demultiplexer does what the packet class of its header does (R65). -/
theorem exec_rxComplete_eq_exec_classOf (n : Nat) (s : State) :
    exec (.rxComplete n) s = exec (classOf s.rxHeader n) s := by
  cases htype : (hdrDecode s.rxHeader).bmType with
  | true =>
    rw [exec_rxComplete_of_control htype, classOf_of_control htype]
    rfl
  | false =>
    rw [exec_rxComplete_of_data htype]
    cases hcrc : (hdrDecode s.rxHeader).bmCRC with
    | true =>
      rw [classOf_of_crc htype hcrc]
      rfl
    | false =>
      rw [classOf_of_sentinel htype hcrc]
      rfl

/-! ## Where a FRAME_OUT comes from (R104, R109) -/

/-- Only an operation that a transfer delivers has a FRAME_OUT among its outputs. -/
theorem Effect.needsTransfer_of_frameOut {s t : State} {i : Instr} {off len : Nat}
    (e : Effect s i t) (hmem : .frameOut off len ∈ t.out) : needsTransfer i = true := by
  cases e with
  | drop ht => exact ht
  | forward ht => exact ht
  | _ => simp [recvRequest, fillHeader] at hmem

/-- The control path forwards nothing (R103). -/
theorem not_frameOut_of_rxControl {s t : State} {n off len : Nat}
    (h : rxTransfer n rxControl s = .next t) : .frameOut off len ∉ t.out := by
  obtain ⟨-, -, why, rfl⟩ := rxTransfer_rxControl_eq_next h
  simp [recvRequest]

/-- The data path forwards at most one frame, six bytes shorter than its transfer. -/
theorem frameOut_of_rxData {s t : State} {length n off len : Nat}
    (h : rxTransfer n (rxData length n) s = .next t) (hmem : .frameOut off len ∈ t.out) :
    (s.rxState = .armed ∧ t.rxState = .held ∧ t.out = [.frameOut off len] ∧ off = 2) ∧
      n = len + 6 := by
  obtain ⟨-, ha, ⟨why, rfl⟩ | ⟨shortest, -, rfl⟩⟩ := rxTransfer_rxData_eq_next h
  · simp [recvRequest] at hmem
  · obtain ⟨rfl, rfl⟩ := by simpa using hmem
    exact ⟨⟨ha, rfl, rfl, rfl⟩, by omega⟩

/-! ## A move that delivers a transfer (R101, R102) -/

theorem fetch_transfer_of_header (b0 b1 : Byte) (body : List Byte) :
    fetch (.transfer (b0 :: b1 :: body)) =
      .instr (classOf (hdrFromBytes b0 b1) (b0 :: b1 :: body).length) := by
  have hsize : Config.hdrSize ≤ (b0 :: b1 :: body).length := Nat.le_add_left 2 body.length
  have hdecode : decodeTransfer (b0 :: b1 :: body) =
      .ok (classOf (hdrFromBytes b0 b1) (b0 :: b1 :: body).length) :=
    (if_neg (Nat.not_lt.2 hsize)).trans (decode_received hsize b0 b1)
  simp only [fetch, hdecode]

theorem fetch_transfer_of_short {bs : List Byte} (h : bs.length < 2) :
    fetch (.transfer bs) = .instr (.rxComplete bs.length) := by
  have hdecode : decodeTransfer bs = .ok (.rxComplete bs.length) := if_pos h
  simp only [fetch, hdecode]

/-! ## A data packet in `RX` (R104, R111) -/

/-- A received data packet: a header that declares the payload and a trailer of four bytes, then the
payload, then the trailer. -/
def dataPacket (payload trailer : List Byte) (c : Bool) : List Byte :=
  hdrBytes (hdrEncode (payload.length + 4) c false) ++ payload ++ trailer

/-- `RX` begins with the bytes `bs`. -/
def RxHolds (s : State) (bs : List Byte) : Prop :=
  ∀ j, j < bs.length → some (s.rxByte j) = bs[j]?

theorem length_dataPacket (payload trailer : List Byte) (c : Bool) :
    (dataPacket payload trailer c).length = 2 + payload.length + trailer.length := by
  rw [dataPacket, List.length_append, List.length_append]
  rfl

theorem fetch_dataPacket (payload trailer : List Byte) (c : Bool) :
    fetch (.transfer (dataPacket payload trailer c)) = .instr
      (classOf (hdrEncode (payload.length + 4) c false) (dataPacket payload trailer c).length) := by
  rw [← hdrFromBytes_hdrBytes (hdrEncode (payload.length + 4) c false)]
  exact fetch_transfer_of_header _ _ (payload ++ trailer)

/-- In a data packet the payload stands right after the header. -/
theorem dataPacket_getElem?_payload {payload : List Byte} {j : Nat} (hj : j < payload.length)
    (trailer : List Byte) (c : Bool) : (dataPacket payload trailer c)[2 + j]? = payload[j]? := by
  have hheader : ∀ h : Half, (hdrBytes h).length = 2 := fun _ => rfl
  rw [dataPacket, List.append_assoc, List.getElem?_append_right (Nat.le_add_right 2 j), hheader,
    Nat.add_sub_cancel_left, List.getElem?_append_left hj]

/-- What USB places in `RX` stands there. -/
theorem rxHolds_deliver (s : State) {bs : List Byte} (h : bs.length ≤ 1520) :
    RxHolds (s.deliver bs) bs := fun j hj => by
  rw [State.rxByte_deliver s h, List.getElem?_eq_getElem hj]
  rfl

section
variable {s : State} {payload trailer : List Byte} {c : Bool}
  (holds : RxHolds s (dataPacket payload trailer c))
include holds

theorem rxHeader_of_rxHolds : s.rxHeader = hdrEncode (payload.length + 4) c false := by
  have hlen := length_dataPacket payload trailer c
  have h0 := Option.some.inj (holds 0 (by omega))
  have h1 := Option.some.inj (holds 1 (by omega))
  rw [State.rxHeader, h0, h1]
  exact hdrFromBytes_hdrBytes _

theorem rxByte_payload_of_rxHolds {j : Nat} (hj : j < payload.length) :
    some (s.rxByte (2 + j)) = payload[j]? := by
  have hlen := length_dataPacket payload trailer c
  rw [holds (2 + j) (by omega), dataPacket_getElem?_payload hj]

/-- RX_COMPLETE on a whole data packet forwards exactly its payload. -/
theorem exec_rxComplete_of_rxHolds (hi : s.inited = true) (ha : s.rxState = .armed)
    (hp : payload.length ≤ 1514) :
    exec (.rxComplete (2 + payload.length + 4)) s = .next
      { s with
        rxState := .held
        out := [.frameOut 2 payload.length]
        lease := some (2, payload.length)
        result := some (.rx .forwarded) } := by
  have hheader := rxHeader_of_rxHolds holds
  have htype : (hdrDecode s.rxHeader).bmType = false := by rw [hheader, hdrDecode_hdrEncode_bmType]
  have hlength : (hdrDecode s.rxHeader).length.toNat = payload.length + 4 := by
    rw [hheader, hdrDecode_hdrEncode_length_toNat (by omega)]
  have hframe : 2 + payload.length + 4 - 6 = payload.length := by omega
  have hforward := execRxComplete_of_wholeData (n := 2 + payload.length + 4) hi ha htype
    (by simp only [Config.hdrSize, Config.trailerSize]; omega)
    (by simp only [Config.bufCap]; omega) (by simp only [Config.hdrSize, hlength]; omega)
  rw [rxForward_enter, hframe] at hforward
  exact hforward

end

/-- A transfer that carries a data packet is forwarded as RX_COMPLETE would forward it. -/
theorem step_of_dataPacket {s : State} {payload trailer : List Byte} {c : Bool} {moves : List Event}
    (hi : s.inited = true) (ha : s.rxState = .armed) (hp : payload.length ≤ 1514)
    (ht : trailer.length = 4)
    (hpending : s.pending = .transfer (dataPacket payload trailer c) :: moves) :
    step s = .next
      { ({ s with pending := moves }).recvDone.deliver (dataPacket payload trailer c) with
        rxState := .held
        out := [.frameOut 2 payload.length]
        lease := some (2, payload.length)
        result := some (.rx .forwarded) } := by
  have hlen : (dataPacket payload trailer c).length = 2 + payload.length + 4 :=
    ht ▸ length_dataPacket payload trailer c
  have holds := rxHolds_deliver ({ s with pending := moves }).recvDone
    (bs := dataPacket payload trailer c) (by omega)
  rw [step_of_fetch_instr hpending (fetch_dataPacket payload trailer c), ← rxHeader_of_rxHolds holds,
    hlen]
  exact (exec_rxComplete_eq_exec_classOf _ _).symm.trans (exec_rxComplete_of_rxHolds holds hi ha hp)

/-- The frame lent in RX_HELD is what NET reads (R45). -/
theorem inLease_of_held {s : State} {len j : Nat} (hheld : s.rxState = .held)
    (hlease : s.lease = some (2, len)) (hj : j < len) : inLease s (2 + j) = true := by
  simp [inLease, hheld, hlease, hj]

end Sys2Proof.Machine

namespace Sys2Proof.Proofs

open Sys2Proof Sys2Proof.Machine

/-- Settles O23: the header declares exactly the bytes after it, and RX_COMPLETE leaves `RX`. -/
theorem decodeStripsToPayload : Obligations.DecodeStripsToPayload := by
  intro s payload trailer c hi ha hp ht hbytes
  have hlen := length_dataPacket payload trailer c
  have holds : RxHolds s (dataPacket payload trailer c) := fun j hj => hbytes j (by omega)
  exact ⟨_, exec_rxComplete_of_rxHolds holds hi ha hp, rfl, rfl,
    fun j hj => rxByte_payload_of_rxHolds holds hj⟩

/-- Settles O24: the packet stands in `RX` as USB placed it, and the offset `2 + j` lies in the frame
lent. -/
theorem transferLendsPayload : Obligations.TransferLendsPayload := by
  intro s payload trailer c moves j hi ha hp ht hj hpending
  have hlen := length_dataPacket payload trailer c
  have holds : RxHolds (State.deliver _ (dataPacket payload trailer c)) _ :=
    rxHolds_deliver ({ s with pending := .access (.netRead (2 + j)) :: moves }).recvDone (by omega)
  refine ⟨_, _, step_of_dataPacket hi ha hp ht hpending, rfl, rfl,
    (step_of_access rfl).trans (agentAccess_netRead _ (by omega)), ?_⟩
  rw [State.readThrough_seen, inLease_of_held rfl rfl hj]
  exact rxByte_payload_of_rxHolds holds hj

/-- Settles O25: of the operations that a transfer delivers, the data path alone forwards a frame, and
RX_COMPLETE takes it where bit 15 of the header is clear. -/
theorem framesComeFromDataPackets : Obligations.FramesComeFromDataPackets := by
  intro i s t off len h hmem
  have htransfer := (effect_of_exec h).needsTransfer_of_frameOut hmem
  cases i with
  | rxComplete n =>
    cases htype : (hdrDecode s.rxHeader).bmType with
    | true =>
      rw [exec_rxComplete_of_control htype] at h
      exact absurd hmem (not_frameOut_of_rxControl h)
    | false =>
      rw [exec_rxComplete_of_data htype] at h
      obtain ⟨⟨ha, hheld, hout, hoff⟩, hn⟩ := frameOut_of_rxData h hmem
      exact ⟨ha, hheld, hout, hoff, .inl ⟨n, rfl, hn, htype⟩⟩
  | eemDataSentinel length n =>
    obtain ⟨⟨ha, hheld, hout, hoff⟩, hn⟩ := frameOut_of_rxData h hmem
    exact ⟨ha, hheld, hout, hoff, .inr ⟨length, n, .inl rfl, hn⟩⟩
  | eemDataCrc length n =>
    obtain ⟨⟨ha, hheld, hout, hoff⟩, hn⟩ := frameOut_of_rxData h hmem
    exact ⟨ha, hheld, hout, hoff, .inr ⟨length, n, .inr rfl, hn⟩⟩
  | eemControl => exact absurd hmem (not_frameOut_of_rxControl h)
  | _ => cases htransfer

/-- Settles O10: `step` fetches the class of the transfer's header, or RX_COMPLETE where it has none. -/
theorem stepRunsTransfer : Obligations.StepRunsTransfer := by
  refine fun s bs moves hp => ⟨fun b0 b1 body hbs => ?_, fun hshort => ?_⟩
  · subst hbs
    exact ⟨decode_received (Nat.le_add_left 2 body.length) b0 b1,
      step_of_fetch_instr hp (fetch_transfer_of_header b0 b1 body)⟩
  · exact step_of_fetch_instr hp (fetch_transfer_of_short hshort)

/-- Settles O18: RX_ARM tests for RX_HELD only. -/
theorem rxArmEffect : Obligations.RxArmEffect := by
  refine ⟨rfl, fun s => ⟨fun hi hh => exec_rxArm_of_held hi hh, fun hi hs => ?_,
    fun h => exec_of_not_inited h nofun⟩⟩
  have hnotHeld : s.rxState ≠ .held := by
    rcases hs with hidle | harmed
    · exact hidle.trans_ne nofun
    · exact harmed.trans_ne nofun
  exact exec_rxArm_of_not_held hi hnotHeld

/-- Settles O19: the `require`s are tested in order, and behind them the branches are the model's own. -/
theorem rxCompleteOutcome : Obligations.RxCompleteOutcome := by
  intro s n
  have hentry := exec_rxComplete_eq_rxTransfer n s
  refine ⟨Laws.EncodeRow.rxComplete n rfl, fun h => exec_of_not_inited h nofun,
    fun hi ha => hentry.trans (rxTransfer_of_not_armed hi ha _),
    fun hi ha hn => hentry.trans (rxTransfer_of_overCapacity hi ha hn _), fun hi ha hn => ?_⟩
  rw [hentry, rxTransfer_of_armed hi ha hn, rxDemux, rxData, rxForward_enter]
  rfl

/-- Settles O20: the class takes the control path, and so does RX_COMPLETE where bit 15 is set. -/
theorem controlPacketDiscarded : Obligations.ControlPacketDiscarded := by
  refine fun s low15 n hi ha shortest longest => ?_
  have hpath := rxTransfer_of_header hi ha shortest longest rxControl
  exact ⟨hpath, fun hbit => (exec_rxComplete_of_control hbit n).trans hpath⟩

/-- Settles O21: both classes take the data path. -/
theorem dataPacketOutcome : Obligations.DataPacketOutcome := by
  intro s length n hi ha shortest longest
  have hpath := rxTransfer_of_header hi ha shortest longest (rxData length.toNat n)
  rw [rxData, rxForward_enter] at hpath
  exact ⟨hpath, hpath⟩

/-- Settles O22. The bound on `n` is not needed: below it both answer RX_SHORT. -/
theorem rxCompleteRunsClass : Obligations.RxCompleteRunsClass :=
  fun s n _ => exec_rxComplete_eq_exec_classOf n s

end Sys2Proof.Proofs
end

section
namespace Sys2Proof.Machine

/-! ## The chain walker's first pass (spec/30_encoding.md R72, spec/43_transmit.md R122) -/

theorem isMarker_iff {seg : Segment} : isMarker seg = true ↔ seg.totLen = seg.payload.length :=
  decide_eq_true_iff

/-- The sum of the `len` fields of segments 0 to `k`. -/
def lenSum (chain : List Segment) (k : Nat) : Nat := ((chain.take (k + 1)).map segmentLen).sum

theorem lenSum_cons_zero (seg : Segment) (rest : List Segment) :
    lenSum (seg :: rest) 0 = segmentLen seg := by
  simp [lenSum]

theorem lenSum_cons_succ (seg : Segment) (rest : List Segment) (k : Nat) :
    lenSum (seg :: rest) (k + 1) = segmentLen seg + lenSum rest k := by
  simp [lenSum]

/-- CHAIN_TOTAL's loop searches for the first marker. -/
theorem chainTotalFrom_eq_findIdx? (i total : Nat) (chain : List Segment) :
    chainTotalFrom i total chain =
      (chain.findIdx? isMarker).elim .noMarker fun k => .total (i + k) (total + lenSum chain k) := by
  induction chain generalizing i total with
  | nil => rfl
  | cons seg rest ih =>
    rw [chainTotalFrom, List.findIdx?_cons]
    split
    · rw [Option.elim_some, lenSum_cons_zero, Nat.add_zero]
    · rw [ih, Option.elim_map]
      simp only [Function.comp_def, lenSum_cons_succ, Nat.add_assoc, Nat.add_comm 1]

theorem chainTotal_eq_findIdx? (chain : List Segment) :
    chainTotal chain =
      (chain.findIdx? isMarker).elim .noMarker fun k => .total k (lenSum chain k) := by
  rw [chainTotal, chainTotalFrom_eq_findIdx?]
  simp only [Nat.zero_add]

theorem chainTotal_eq_total_iff {chain : List Segment} {k total : Nat} :
    chainTotal chain = .total k total ↔
      chain.findIdx? isMarker = some k ∧ total = lenSum chain k := by
  rw [chainTotal_eq_findIdx?]
  cases chain.findIdx? isMarker with
  | none => exact ⟨nofun, nofun⟩
  | some k' =>
    simp only [Option.elim_some, Walk.total.injEq, Option.some.injEq]
    exact and_congr_right fun hk => hk ▸ eq_comm

theorem chainTotal_eq_noMarker_iff {chain : List Segment} :
    chainTotal chain = .noMarker ↔ chain.findIdx? isMarker = none := by
  rw [chainTotal_eq_findIdx?]
  cases chain.findIdx? isMarker with
  | none => exact ⟨fun _ => rfl, fun _ => rfl⟩
  | some k => exact ⟨nofun, nofun⟩

/-- The search finds segment `k` where `k` has the marker and no segment before it does. -/
theorem findIdx?_isMarker_eq_some_iff {chain : List Segment} {k : Nat} :
    chain.findIdx? isMarker = some k ↔
      (∃ seg, chain[k]? = some seg ∧ seg.totLen = seg.payload.length) ∧
      ∀ j seg, j < k → chain[j]? = some seg → seg.totLen ≠ seg.payload.length := by
  rw [List.findIdx?_eq_some_iff_getElem]
  constructor
  · rintro ⟨hk, hmarker, hbefore⟩
    refine ⟨⟨chain[k], List.getElem?_eq_getElem hk, isMarker_iff.1 hmarker⟩, ?_⟩
    intro j seg hj hseg hlen
    obtain ⟨_, rfl⟩ := List.getElem?_eq_some_iff.1 hseg
    exact hbefore j hj (isMarker_iff.2 hlen)
  · rintro ⟨⟨seg, hseg, hlen⟩, hbefore⟩
    obtain ⟨hk, rfl⟩ := List.getElem?_eq_some_iff.1 hseg
    refine ⟨hk, isMarker_iff.2 hlen, fun j hj hmarker => ?_⟩
    exact hbefore j _ hj (List.getElem?_eq_getElem (hj.trans hk)) (isMarker_iff.1 hmarker)

theorem findIdx?_isMarker_eq_none_iff {chain : List Segment} :
    chain.findIdx? isMarker = none ↔ ∀ seg ∈ chain, seg.totLen ≠ seg.payload.length := by
  simp only [List.findIdx?_eq_none_iff, ← Bool.not_eq_true, isMarker_iff, ne_eq]

/-! ## The transmit operations, branch by branch (R120, R121, R124 to R131) -/

/-- An operation other than INIT goes through after INIT only (R90). -/
theorem inited_of_exec {i : Instr} {s t : State} (h : exec i s = .next t) (hi : i ≠ .init) :
    s.inited = true := by
  by_contra hs
  cases (exec_of_not_inited (eq_false_of_ne_true hs) hi).symm.trans h

theorem exec_sendComplete_of_inited {s : State} (hi : s.inited = true) :
    exec .sendComplete s = .next s.enter.openGate := by
  simp only [exec, execSendComplete, requireInited_of_inited hi]

theorem exec_txReady_of_inited {s : State} (hi : s.inited = true) :
    exec .txReady s = .next (s.enter.finish (.ready s.txReady)) := by
  simp only [exec, execTxReady, requireInited_of_inited hi]

theorem exec_eemTxHeader_of_ready {s : State} (hi : s.inited = true) (hr : s.txReady = true)
    (length : BitVec 14) :
    exec (.eemTxHeader length) s = .next (fillHeader length.toNat s.enter) := by
  simp only [exec, execEemTxHeader, requireInited_of_inited hi, if_pos hr]

theorem exec_eemTxHeader_of_busy {s : State} (hi : s.inited = true) (hb : s.txReady = false)
    (length : BitVec 14) :
    exec (.eemTxHeader length) s = .next (s.enter.finish (.xmit .busy)) := by
  simp only [exec, execEemTxHeader, requireInited_of_inited hi, if_neg (ne_true_of_eq_false hb)]

section
variable {s : State} {chain : List Segment}

theorem exec_xmitPacket_of_busy (hi : s.inited = true) (hb : s.txReady = false) :
    exec (.xmitPacket chain) s = .next (s.enter.finish (.xmit .busy)) := by
  simp only [exec, execXmitPacket_of_inited hi, if_neg (ne_true_of_eq_false hb)]

theorem exec_xmitPacket_of_noMarker (hi : s.inited = true) (hr : s.txReady = true)
    (walk : chainTotal chain = .noMarker) :
    exec (.xmitPacket chain) s = .next (s.enter.finish (.xmit .malformed)) := by
  simp only [exec, execXmitPacket_of_inited hi, if_pos hr, walk]

theorem exec_xmitPacket_of_oversize {k total : Nat} (hi : s.inited = true) (hr : s.txReady = true)
    (walk : chainTotal chain = .total k total) (large : 1514 < total) :
    exec (.xmitPacket chain) s = .next (s.enter.finish (.xmit .oversize)) := by
  simp only [exec, execXmitPacket_of_inited hi, if_pos hr, walk,
    if_pos (show Config.mss < total from large)]

theorem exec_xmitPacket_of_fits {k total : Nat} (hi : s.inited = true) (hr : s.txReady = true)
    (walk : chainTotal chain = .total k total) (fits : total ≤ 1514) :
    exec (.xmitPacket chain) s = .next (xmitSend chain k total s.enter) := by
  simp only [exec, execXmitPacket_of_inited hi, if_pos hr, walk,
    if_neg (show ¬ Config.mss < total from Nat.not_lt.2 fits)]

end

/-! ## The bytes of a packet in `TX` (R129, R131) -/

/-- The header fill leaves the header's two bytes, low byte first. -/
theorem txByte_fillHeader (length : Nat) (s : State) :
    [(fillHeader length s).txByte 0, (fillHeader length s).txByte 1] =
      hdrBytes (hdrEncode length false false) := by
  simp only [fillHeader, State.txByte_txWrite]
  rfl

/-- The filled header in arithmetic: both flag bits are clear, so its bytes are the length's. -/
theorem toNat_txByte_fillHeader {length : Nat} (h : length < 16384) (s : State) :
    ((fillHeader length s).txByte 0).toNat = length % 256 ∧
      ((fillHeader length s).txByte 1).toNat = length / 256 := by
  have hbytes := congrArg (List.map BitVec.toNat) (txByte_fillHeader length s)
  rw [map_toNat_hdrBytes, toNat_hdrEncode_noFlags h] at hbytes
  simpa using hbytes

/-- The sentinel of a packet with a payload of `total` bytes stands right after the payload. -/
theorem PacketInTx.sentinel_after_payload {s : State} {total j : Nat}
    (h : PacketInTx s (2 + (total + 4))) (hj : j < 4) :
    some (s.txByte (2 + total + j)) = Config.sentinel[j]? := by
  have hoff : 2 + (total + 4) - Config.trailerSize + j = 2 + total + j := by
    simp only [Config.trailerSize]
    omega
  exact hoff ▸ h.sentinel j hj

/-! ## The gate (R132) -/

/-- Of the operations only CONFIG, SEND_COMPLETE and XMIT_PACKET move the gate. -/
theorem Effect.sameGate {s t : State} {i : Instr} (e : Effect s i t) (hc : i ≠ .config)
    (hs : i ≠ .sendComplete) (hx : ∀ chain, i ≠ .xmitPacket chain) : t.txReady = s.txReady := by
  cases e with
  | config => exact absurd rfl hc
  | sendComplete => exact absurd rfl hs
  | frameSent => exact absurd rfl (hx _)
  | _ => rfl

/-- R132's rows for XMIT_PACKET: sent, dropped with the gate READY, or dropped with it BUSY. -/
theorem gate_of_xmitPacket {s t : State} {chain : List Segment}
    (h : exec (.xmitPacket chain) s = .next t) :
    (t.result = some (.xmit .sent) ∧ s.txReady = true ∧ t.txReady = false ∧
      ∃ len, t.out = [.sendReq .epIn .TX len]) ∨
    ((t.result = some (.xmit .oversize) ∨ t.result = some (.xmit .malformed)) ∧
      s.txReady = true ∧ t.txReady = true ∧ t.out = []) ∨
    (t.result = some (.xmit .busy) ∧ s.txReady = false ∧ t.txReady = false ∧ t.out = []) := by
  have hi := inited_of_exec h nofun
  cases hr : s.txReady with
  | false =>
    obtain rfl := Host.Outcome.next.inj ((exec_xmitPacket_of_busy hi hr).symm.trans h)
    exact .inr (.inr ⟨rfl, rfl, hr, rfl⟩)
  | true =>
    cases walk : chainTotal chain with
    | noMarker =>
      obtain rfl := Host.Outcome.next.inj ((exec_xmitPacket_of_noMarker hi hr walk).symm.trans h)
      exact .inr (.inl ⟨.inr rfl, rfl, hr, rfl⟩)
    | total k total =>
      rcases Nat.lt_or_ge 1514 total with large | fits
      · obtain rfl :=
          Host.Outcome.next.inj ((exec_xmitPacket_of_oversize hi hr walk large).symm.trans h)
        exact .inr (.inl ⟨.inl rfl, rfl, hr, rfl⟩)
      · obtain rfl := Host.Outcome.next.inj ((exec_xmitPacket_of_fits hi hr walk fits).symm.trans h)
        exact .inl ⟨rfl, rfl, rfl, _, xmitSend_out chain k total s.enter⟩

end Sys2Proof.Machine

namespace Sys2Proof.Proofs

open Sys2Proof Sys2Proof.Machine

/-- Settles O29: the walk is a search for the first marker, and the total is the sum of `len` up to it;
consistency at segment 0 says that this sum is its `tot_len`. -/
theorem chainTotalFindsFirstMarker : Obligations.ChainTotalFindsFirstMarker := by
  refine ⟨fun chain k total => ?_, fun chain => ?_, fun chain first k total walk consistent => ?_,
    fun a b c d e f g h => rfl⟩
  · rw [chainTotal_eq_total_iff, findIdx?_isMarker_eq_some_iff, and_assoc]
    rfl
  · rw [chainTotal_eq_noMarker_iff, findIdx?_isMarker_eq_none_iff]
  · obtain ⟨-, hsum⟩ := chainTotal_eq_total_iff.1 walk
    exact hsum.trans (consistent 0 first (Nat.zero_le k) rfl).symm

/-- Settles O30: CHAIN_FLATTEN is one write of the payloads after the header region. -/
theorem chainFlattenCopies : Obligations.ChainFlattenCopies := by
  intro s chain k total walk _
  have hlen := chainTotal_eq_total walk
  dsimp only
  rw [chainFlatten_eq]
  refine ⟨hlen, rfl, fun j hj => ?_, fun off hoff => ?_⟩
  · rw [← hlen] at hj
    exact (congrArg some (State.txByte_txWrite_of_inside s hj)).trans (List.getElem?_eq_getElem hj).symm
  · rw [← hlen] at hoff
    exact State.txByte_txWrite_of_outside s hoff

/-- Settles O33: what is sent is a class packet with the chain's payload in it. -/
theorem xmitSendsPacket : Obligations.XmitSendsPacket := by
  intro s chain k total hi hr walk fits
  have packet := packetInTx_xmitSend s.enter walk fits
  have hsentinel {j : Nat} (hj : j < 4) := packet.sentinel_after_payload hj
  refine ⟨_, exec_xmitPacket_of_fits hi hr walk fits, ?_, ?_,
    fun j hj => xmitSend_txByte_payload s.enter walk hj,
    Option.some.inj (hsentinel (j := 0) (by decide)), Option.some.inj (hsentinel (j := 1) (by decide)),
    Option.some.inj (hsentinel (j := 2) (by decide)), Option.some.inj (hsentinel (j := 3) (by decide)),
    fun off hoff => xmitSend_txByte_of_beyond s.enter walk hoff⟩
  · rw [xmitSend_eq]
    rfl
  · rw [packet.header_eq, toNat_hdrEncode_noFlags (by omega)]

/-- Settles O38: each of the three operations that move the gate by its own rows, the others by the
effects. -/
theorem gateMachine : Obligations.GateMachine := by
  refine ⟨rfl, fun i s t h => ?_⟩
  have hkeeps := (effect_of_exec h).sameGate
  cases i with
  | config =>
    have hi := inited_of_exec h nofun
    obtain rfl := Host.Outcome.next.inj ((exec_config_of_inited hi).symm.trans h)
    exact ⟨rfl, rfl⟩
  | sendComplete =>
    have hi := inited_of_exec h nofun
    obtain rfl := Host.Outcome.next.inj ((exec_sendComplete_of_inited hi).symm.trans h)
    exact ⟨rfl, rfl⟩
  | xmitPacket chain => exact gate_of_xmitPacket h
  | _ => exact hkeeps nofun nofun nofun

/-- Settles O27, by the operation's two branches. -/
theorem sendCompleteEffect : Obligations.SendCompleteEffect :=
  ⟨Laws.EncodeRow.sendComplete rfl, fun _ =>
    ⟨fun hi => exec_sendComplete_of_inited hi, fun h => exec_of_not_inited h nofun⟩⟩

/-- Settles O28, by the operation's two branches. -/
theorem txReadyEffect : Obligations.TxReadyEffect :=
  ⟨Laws.EncodeRow.txReady rfl, fun _ =>
    ⟨fun hi => exec_txReady_of_inited hi, fun h => exec_of_not_inited h nofun⟩⟩

/-- Settles O31: the gate is tested before the chain is looked at. -/
theorem xmitBusyDropsFrame : Obligations.XmitBusyDropsFrame :=
  fun _ _ hi hb => exec_xmitPacket_of_busy hi hb

/-- Settles O32, by the two dropping branches behind the gate. -/
theorem xmitBadChainDropsFrame : Obligations.XmitBadChainDropsFrame :=
  fun _ _ hi hr => ⟨fun walk => exec_xmitPacket_of_noMarker hi hr walk,
    fun _ _ walk large => exec_xmitPacket_of_oversize hi hr walk large⟩

/-- Settles O34. Every length of 14 bits fits the header's field, so R68's range is not needed. -/
theorem txHeaderFill : Obligations.TxHeaderFill := by
  refine fun s length hi _ => ⟨fun hr => ?_, fun hb => exec_eemTxHeader_of_busy hi hb length⟩
  obtain ⟨hlow, hhigh⟩ := toNat_txByte_fillHeader length.isLt s.enter
  exact ⟨_, exec_eemTxHeader_of_ready hi hr length, rfl, hlow, hhigh,
    fun off hoff => State.txByte_txWrite_of_outside s.enter (.inr hoff)⟩

/-- Settles O35: the header is the last of XMIT_PACKET's three writes, and `L + 4` fits its field. -/
theorem xmitFillsHeaderLast : Obligations.XmitFillsHeaderLast := by
  intro s t chain k total hr walk fits h
  have hi := inited_of_exec h nofun
  obtain rfl := Host.Outcome.next.inj ((exec_xmitPacket_of_fits hi hr walk fits).symm.trans h)
  have hlength : (BitVec.ofNat 14 (total + 4)).toNat = total + 4 :=
    Nat.mod_eq_of_lt (show total + 4 < 16384 by omega)
  rw [chainFlatten_eq]
  refine ⟨_, _, rfl, exec_eemTxHeader_of_ready ?_ ?_ _, ?_⟩
  · exact hi
  · exact hr
  · rw [hlength, xmitSend_eq]
    rfl

end Sys2Proof.Proofs
end

section
namespace Sys2Proof.Machine

/-! ## No fault (R140) -/

/-- A completed transfer is refused by one of its three `require`s or goes through, whatever its
branch (R101). -/
theorem rxTransfer_ne_fault {n : Nat} {body : State → State} {s : State} {f : Fault} :
    rxTransfer n body s ≠ .fault f := by
  cases hi : s.inited with
  | false => rw [rxTransfer_of_not_inited hi]; nofun
  | true =>
    by_cases ha : s.rxState = .armed
    · rcases Nat.lt_or_ge Config.bufCap n with large | fits
      · rw [rxTransfer_of_overCapacity hi ha large]; nofun
      · rw [rxTransfer_of_armed hi ha fits]; nofun
    · rw [rxTransfer_of_not_armed hi ha]; nofun

/-! ## The gate through a step (R132, R144) -/

/-- A BUSY gate is opened by CONFIG and SEND_COMPLETE only: XMIT_PACKET can but close it. -/
theorem Effect.busy_of_busy {s t : State} {i : Instr} (e : Effect s i t)
    (hbusy : s.txReady = false) (hc : i ≠ .config) (hs : i ≠ .sendComplete) :
    t.txReady = false := by
  cases e with
  | config => exact absurd rfl hc
  | sendComplete => exact absurd rfl hs
  | frameSent => rfl
  | _ => exact hbusy

/-- No access of an agent moves the gate. -/
theorem agentAccess_gate {s t : State} {a : Access} (h : agentAccess a s = .next t) :
    t.txReady = s.txReady := by
  rcases agentAccess_eq_next h with ⟨_, _, -, -, -, rfl⟩ | ⟨_, _, -, -, -, rfl⟩ | ⟨_, rfl⟩ | rfl <;>
    rfl

/-- SEND_COMPLETE comes by a call or as an unmatched completion: no packet carries it. -/
theorem call_or_unmatched_of_fetch_sendComplete {e : Event} (h : fetch e = .instr .sendComplete) :
    (∃ bs, e = .call bs ∧ decode .call bs = .ok .sendComplete) ∨ e = .unmatched .send := by
  rcases fetch_eq_instr h with hcall | ⟨bs, -, htransfer⟩ | ⟨c, rfl, hc⟩
  · exact .inl hcall
  · cases htransfer
  · cases c with
    | recv n => cases hc
    | send => exact .inr rfl

end Sys2Proof.Machine

namespace Sys2Proof.Proofs

open Sys2Proof Sys2Proof.Machine

/-- Settles O52: neither an invoker nor an access moves the gate, and the two operations that open a BUSY
one come by the moves named. -/
theorem stuckBusyUntilCompletion : Obligations.StuckBusyUntilCompletion := by
  intro s t hbusy h
  rcases step_eq_next h with ⟨-, rfl⟩ | ⟨e, rest, i, hp, hf, hx⟩ | ⟨e, rest, a, -, -, hx⟩
  · exact .inl hbusy
  · by_cases hc : i = .config
    · subst hc
      obtain ⟨bs, rfl, hd⟩ := call_of_fetch_config hf
      exact .inr (.inl ⟨bs, rest, hp, .inr hd⟩)
    by_cases hs : i = .sendComplete
    · subst hs
      rcases call_or_unmatched_of_fetch_sendComplete hf with ⟨bs, rfl, hd⟩ | rfl
      · exact .inr (.inl ⟨bs, rest, hp, .inl hd⟩)
      · exact .inr (.inr ⟨rest, hp⟩)
    obtain ⟨-, hready, -⟩ := arrive_unchanged hf { s with pending := rest }
    exact .inl ((effect_of_exec hx).busy_of_busy (hready.trans hbusy) hc hs)
  · exact .inl ((agentAccess_gate hx).trans hbusy)

/-- Settles O41: before INIT every operation but INIT is refused, and after it each one's branches answer a
next state or, for a completed transfer, a refusal. -/
theorem noOperationFaults : Obligations.NoOperationFaults := by
  intro i s f
  by_cases hinit : i = .init
  · subst hinit
    nofun
  cases hi : s.inited with
  | false => exact (exec_of_not_inited hi hinit).trans_ne nofun
  | true =>
    cases i with
    | init => exact absurd rfl hinit
    | config => exact (exec_config_of_inited hi).trans_ne nofun
    | sendComplete => exact (exec_sendComplete_of_inited hi).trans_ne nofun
    | txReady => exact (exec_txReady_of_inited hi).trans_ne nofun
    | rxArm =>
      by_cases hheld : s.rxState = .held
      · exact (exec_rxArm_of_held hi hheld).trans_ne nofun
      · exact (exec_rxArm_of_not_held hi hheld).trans_ne nofun
    | rxComplete | eemDataSentinel | eemDataCrc | eemControl =>
      simp only [exec]
      exact rxTransfer_ne_fault
    | xmitPacket chain => exact (execXmitPacket_of_inited hi chain).trans_ne nofun
    | eemTxHeader length =>
      cases hr : s.txReady with
      | false => exact (exec_eemTxHeader_of_busy hi hr length).trans_ne nofun
      | true => exact (exec_eemTxHeader_of_ready hi hr length).trans_ne nofun

end Sys2Proof.Proofs
end

section
namespace Sys2Proof.Machine

/-! ## The agents' duties (spec/70_reset_and_hazards.md R186) -/

theorem fetch_call_of_decode {bs : List Byte} {i : Instr} (h : decode .call bs = .ok i) :
    fetch (.call bs) = .instr i := by
  simp only [fetch, h]

theorem opDuty_of_duty {e : Event} {i : Instr} {s : State} (hf : fetch e = .instr i)
    (h : duty e s) : opDuty i s := by
  obtain ⟨-, hduty⟩ := (duty_iff e s).1 h
  rw [hf] at hduty
  exact hduty

/-- A move that keeps its duty runs an operation or is an access, and keeps that one's duty: bytes that are
no instruction keep none. -/
theorem duty_cases {e : Event} {s : State} (h : duty e s) :
    (∃ i, fetch e = .instr i ∧ opDuty i s) ∨ (∃ a, e = .access a ∧ accessDuty a s) := by
  obtain ⟨-, hduty⟩ := (duty_iff e s).1 h
  cases hf : fetch e with
  | instr i => exact .inl ⟨i, rfl, opDuty_of_duty hf h⟩
  | access a =>
    rw [hf] at hduty
    exact .inr ⟨a, fetch_eq_access hf, hduty⟩
  | bad err =>
    rw [hf] at hduty
    cases hduty

/-- The duties on an operation meet its `require`s, also on the state its invoker leaves: the `require`s ask
of the link alone, which no invoker touches. -/
theorem exec_eq_next_of_opDuty {i : Instr} {s u : State} (h : opDuty i s)
    (hinited : u.inited = s.inited) (hrx : u.rxState = s.rxState) : ∃ t, exec i u = .next t := by
  cases i with
  | init => exact ⟨_, rfl⟩
  | config => exact ⟨_, exec_config_of_inited (hinited.trans h)⟩
  | rxArm =>
    obtain ⟨hi, hheld⟩ := h
    exact ⟨_, exec_rxArm_of_held (hinited.trans hi) (hrx.trans hheld)⟩
  | rxComplete | eemDataSentinel | eemDataCrc | eemControl =>
    obtain ⟨hi, harmed, fits, -⟩ := h
    simp only [exec]
    exact ⟨_, rxTransfer_of_armed (hinited.trans hi) (hrx.trans harmed) fits _⟩
  | sendComplete => exact ⟨_, exec_sendComplete_of_inited (hinited.trans h.1)⟩
  | txReady => exact ⟨_, exec_txReady_of_inited (hinited.trans h)⟩
  | xmitPacket chain => exact ⟨_, execXmitPacket_of_inited (hinited.trans h) chain⟩
  | eemTxHeader length =>
    have hi : u.inited = true := hinited.trans h.1
    cases hr : u.txReady with
    | false => exact ⟨_, exec_eemTxHeader_of_busy hi hr length⟩
    | true => exact ⟨_, exec_eemTxHeader_of_ready hi hr length⟩

/-- A write while armed and within the capacity, and a read inside the reader's window, are no fault. -/
theorem agentAccess_eq_next_of_accessDuty {a : Access} {s : State} (h : accessDuty a s) :
    ∃ t, agentAccess a s = .next t := by
  cases a with
  | usbWrite off b =>
    obtain ⟨harmed, hoff⟩ := h
    exact ⟨_, agentAccess_usbWrite_of_armed b harmed hoff⟩
  | usbRead off => exact ⟨_, if_pos h⟩
  | netRead off => exact ⟨_, if_pos h⟩

/-- A completed transfer keeps its duty only where USB carries a receive request. -/
theorem receiving_pos_of_opDuty {i : Instr} {s : State} (hn : needsTransfer i = true)
    (h : opDuty i s) : 0 < s.receiving := by
  cases i with
  | rxComplete | eemDataSentinel | eemDataCrc | eemControl =>
    obtain ⟨-, -, -, carried⟩ := h
    exact carried
  | _ => cases hn

/-! ## Completions that answer no request (spec/70_reset_and_hazards.md R176, R185) -/

/-- The block opens its gate on an unmatched SEND_COMPLETE, and USB goes on carrying its sends. -/
theorem step_of_unmatched_send {s : State} {moves : List Event} (hi : s.inited = true)
    (hp : s.pending = .unmatched .send :: moves) :
    step s = .next { s with pending := moves }.enter.openGate :=
  (step_of_fetch_instr hp rfl).trans (exec_sendComplete_of_inited hi)

/-- With a READY gate a chain that fits is sent, whatever USB still carries. -/
theorem step_of_xmitPacket_fits {s : State} {chain : List Segment} {k total : Nat}
    {moves : List Event} (hi : s.inited = true) (hr : s.txReady = true)
    (walk : chainTotal chain = .total k total) (fits : total ≤ 1514)
    (hp : s.pending = .call (encode (.xmitPacket chain)) :: moves) :
    step s = .next (xmitSend chain k total { s with pending := moves }.enter) :=
  (step_of_fetch_instr hp (fetch_call_of_decode (decode_encode_xmitPacket chain))).trans
    (exec_xmitPacket_of_fits hi hr walk fits)

/-- USB reads a byte of any send it carries, the earliest included (R46). -/
theorem inSend_of_mem {s : State} {len off : Nat} (hmem : len ∈ s.sending) (hoff : off < len) :
    inSend s off = true :=
  List.any_eq_true.2 ⟨len, hmem, decide_eq_true hoff⟩

/-- With a READY gate the next packet is written over one USB still carries: the byte USB then reads of the
earlier send is the new payload's (R176). -/
theorem xmitPacket_overwrites_carried {s : State} {chain : List Segment} {k total len j : Nat}
    {moves : List Event} (hi : s.inited = true) (hr : s.txReady = true)
    (walk : chainTotal chain = .total k total) (fits : total ≤ 1514)
    (carried : len ∈ s.sending) (hj : j < total) (hwindow : 2 + j < len)
    (hp : s.pending = .call (encode (.xmitPacket chain)) :: .access (.usbRead (2 + j)) :: moves) :
    ∃ u v, step s = .next u ∧ step u = .next v ∧ u.result = some (.xmit .sent) ∧
      u.sending = s.sending ++ [2 + (total + 4)] ∧ v.seen = (chainPayload chain k)[j]? := by
  have hsent := step_of_xmitPacket_fits hi hr walk fits hp
  generalize hu : xmitSend chain k total _ = u at hsent
  have hsending : u.sending = s.sending ++ [2 + (total + 4)] := by
    rw [← hu, xmitSend_eq]
    rfl
  have hbyte : some (u.txByte (2 + j)) = (chainPayload chain k)[j]? :=
    hu ▸ xmitSend_txByte_payload _ walk hj
  have inside : inSend u (2 + j) = true :=
    inSend_of_mem (hsending ▸ List.mem_append_left _ carried) hwindow
  have hread : step u = .next { u with pending := moves, seen := some (u.txByte (2 + j)) } := by
    have hpending : u.pending = .access (.usbRead (2 + j)) :: moves := by
      rw [← hu, xmitSend_eq]
      rfl
    exact (step_of_access hpending).trans (if_pos inside)
  exact ⟨u, _, hsent, hread, by rw [← hu, xmitSend_eq], hsending, hbyte⟩

/-- A receive completion is dropped, and one more request issued, or its frame is lent to NET. -/
theorem Effect.receiving_of_needsTransfer {s t : State} {i : Instr} (e : Effect s i t)
    (hn : needsTransfer i = true) :
    (t.rxState = .armed ∧ t.receiving = s.receiving + 1) ∨
      (t.rxState = .held ∧ t.receiving = s.receiving) := by
  cases e with
  | drop _ harmed => exact .inl ⟨harmed, rfl⟩
  | forward => exact .inr ⟨rfl, rfl⟩
  | _ => cases hn

/-- RX_COMPLETE that meets its `require`s has one of those two outcomes. -/
theorem exec_rxComplete_requests {n : Nat} {s : State} (hi : s.inited = true)
    (harmed : s.rxState = .armed) (fits : n ≤ 1520) :
    ∃ t, exec (.rxComplete n) s = .next t ∧
      ((t.rxState = .armed ∧ t.receiving = s.receiving + 1) ∨
        (t.rxState = .held ∧ t.receiving = s.receiving)) := by
  have hx := (exec_rxComplete_eq_rxTransfer n s).trans (rxTransfer_of_armed hi harmed fits _)
  exact ⟨_, hx, (effect_of_exec hx).receiving_of_needsTransfer rfl⟩

/-- R24, R32: a second request in RX_ARMED, or one at all in RX_HELD, is one too many. -/
theorem not_matched_of_extra_request {t : State}
    (h : (t.rxState = .armed ∧ t.receiving = 2) ∨ (t.rxState = .held ∧ t.receiving = 1)) :
    ¬ Matched t := by
  intro hmatched
  have hrecv := hmatched.recv
  rcases h with ⟨hrx, hcount⟩ | ⟨hrx, hcount⟩ <;> simp [hrx, hcount] at hrecv

end Sys2Proof.Machine

namespace Sys2Proof.Proofs

open Sys2Proof Sys2Proof.Machine

/-- Settles O47: the duties meet every `require` and keep every access in its agent's window, and a call that
is no instruction keeps none. -/
theorem dutiesSuffice : Obligations.DutiesSuffice := by
  intro s e moves hp h
  rcases duty_cases h with ⟨i, hf, hduty⟩ | ⟨a, rfl, hduty⟩
  · obtain ⟨hinited, -, hrx, -⟩ := arrive_unchanged hf { s with pending := moves }
    rw [step_of_fetch_instr hp hf]
    exact exec_eq_next_of_opDuty hduty hinited hrx
  · rw [step_of_access hp]
    exact agentAccess_eq_next_of_accessDuty hduty

/-- Settles O56: the stale completion opens the gate, so the next packet is written over the one USB still
carries, and USB's window is that of the earlier send. -/
theorem staleCompletionLosesSend : Obligations.StaleCompletionLosesSend := by
  intro s chain k total len j moves hi hcarried walk fits hj hwindow hp
  have carried : len ∈ s.sending := hcarried ▸ List.mem_singleton_self len
  obtain ⟨u, v, hsent, hread, hresult, hsending, hseen⟩ :=
    xmitPacket_overwrites_carried (s := State.openGate (State.enter { s with pending := _ }))
      hi rfl walk fits carried hj hwindow rfl
  exact ⟨_, u, v, step_of_unmatched_send hi hp, hsent, hread, hresult,
    hsending.trans (congrArg (· ++ [2 + (total + 4)]) hcarried), hseen⟩

/-- Settles O57: the operation runs on the state handed over with the request still counted. -/
theorem staleReceiveBreaksOneRequest : Obligations.StaleReceiveBreaksOneRequest := by
  intro s n moves hi harmed fits hcarried hp
  obtain ⟨t, ht, hrequests⟩ :=
    exec_rxComplete_requests (s := State.handOver { s with pending := moves } n) hi harmed fits
  simp only [State.handOver_receiving, hcarried] at hrequests
  exact ⟨t, (step_of_fetch_instr hp rfl).trans ht, not_matched_of_extra_request hrequests, hrequests⟩

/-- Settles O58: a kept duty makes the step go through (O47) and is no unmatched completion, so both
invariants carry over (O14, O54); and a completion's own duty is a request that USB carries. -/
theorem dutiesKeepMatched : Obligations.DutiesKeepMatched := by
  refine ⟨fun s e moves hinv hmatched hp h => ?_, fun _ _ h => h, fun bs s hd hnone h => ?_,
    fun bs n s hd hnone h => ?_, fun bs s hnone h => ?_⟩
  · obtain ⟨t, hstep⟩ := dutiesSuffice s e moves hp h
    obtain ⟨hanswers, -⟩ := (duty_iff e s).1 h
    have hnext : Matched t := stepKeepsMatched s t hinv hmatched
      (fun c rest hu => hanswers c (List.cons.inj (hp.symm.trans hu)).1) hstep
    exact ⟨t, hstep, stepKeepsInv s t hinv hstep, hnext, hnext.gate⟩
  · obtain ⟨-, carried⟩ := opDuty_of_duty (fetch_call_of_decode hd) h
    exact carried hnone
  · have carried := receiving_pos_of_opDuty rfl (opDuty_of_duty (fetch_call_of_decode hd) h)
    exact carried.ne' hnone
  · rcases duty_cases h with ⟨i, hf, hduty⟩ | ⟨_, he, -⟩
    · rcases fetch_eq_instr hf with ⟨_, he, -⟩ | ⟨_, -, htransfer⟩ | ⟨_, he, -⟩
      · cases he
      · exact (receiving_pos_of_opDuty htransfer hduty).ne' hnone
      · cases he
    · cases he

/-- Settles O53: an unmatched completion is fetched as the operation of the matched one, and on its arrival
USB hands over `RX` but ends no request. -/
theorem stepRunsUnmatchedCompletion : Obligations.StepRunsUnmatchedCompletion :=
  fun _ _ => ⟨fun hp => step_of_fetch_instr hp rfl, fun _ hp => step_of_fetch_instr hp rfl⟩

/-- Settles O55: READY with a send carried is what R29 excludes. -/
theorem staleCompletionOpensGate : Obligations.StaleCompletionOpensGate :=
  fun _ _ hi hcarried hp => ⟨_, step_of_unmatched_send hi hp,
    fun hgate => Bool.noConfusion (hgate hcarried), rfl⟩

end Sys2Proof.Proofs
end
